-- ==== Sys2Proof/Word.lean ====
section
/-! DEFINITION. The element types of the R2048 block (R6, R17, R21, R22, R29) and its four fixed constants. -/

namespace Sys2Proof

/-- A byte: an integer in [0, 255] (R6). -/
abbrev Byte := BitVec 8

/-- A digit: an integer in [0, 2047] (R6, R22). -/
abbrev Digit := BitVec 11

/-- A word of the bank is a byte string compared byte for byte (R17); the bound WMAX on its length is a
check of the commands that take one, not part of the type. -/
abbrev Word := List Byte

/-- A 32-bit register, header or response value (R9, R29, R52, R60). -/
abbrev Reg := BitVec 32

/-- The 24-bit immediate field of a header (R52). -/
abbrev Imm := BitVec 24

/-- The four constants the source fixes (R6). -/
abbrev RADIX : Nat := 2048
abbrev DIGIT_BITS : Nat := 11
abbrev BYTE_BITS : Nat := 8
abbrev BANK_SIZE : Nat := 2048

end Sys2Proof
end

