-- ==== Sys2Proof/Machine/Lengths.lean ====
section
/-! DEFINITION. The 11-bit/8-bit boundary aligner as functions on natural numbers (R94 to R99). -/

namespace Sys2Proof.Machine

/-- The number of words for an augmented buffer of `n` bytes, ceil(8n/11) (R94). -/
def wordlen (n : Nat) : Nat := (8 * n + 10) / 11

/-- The candidate byte length for `w` words, floor(11w/8) (R96). -/
def bytelen (w : Nat) : Nat := 11 * w / 8

/-- Whether `w` words could have come from a buffer one byte shorter than the candidate (R98). -/
def flexible (w : Nat) : Bool := decide (1 ≤ bytelen w) && decide (wordlen (bytelen w - 1) = w)

/-- The bits of the digit array above an `n`-byte buffer (R95). -/
def padBits (n : Nat) : Nat := 11 * wordlen n - 8 * n

/-- The bits of `w` digits above the candidate of bytelen(w) bytes (R95). -/
def slackBits (w : Nat) : Nat := 11 * w - 8 * bytelen w

end Sys2Proof.Machine
end

