-- ==== Sys2Proof/Syntax.lean ====
section
/-! DEFINITION. The 26 commands of R55 (one constructor per row of spec/opcode_table.json), the command packet (R50) and
the response (R60). -/

namespace Sys2Proof

/-- The commands of R55. The operand of a format-I command has the width k of R54, so a wider one cannot be written;
the operand of a format-W command is the packet's payload taken as a word. -/
inductive Instr where
  | nop
  | clear
  | rdreg (r : BitVec 24)
  | clrerr
  | rderrw
  | bankpush (x : Word)
  | build
  | lookup (x : Word)
  | bankrd (d : Digit)
  | bclr
  | bpush (b : Byte)
  | brd (a : BitVec 24)
  | dclr
  | dpush (d : Digit)
  | drd (j : BitVec 24)
  | wpush (x : Word)
  | wget (j : BitVec 24)
  | wlen (n : BitVec 24)
  | blen (w : BitVec 24)
  | drop1
  | b2d
  | d2b
  | csapp
  | csver
  | encode
  | decode
deriving DecidableEq, Repr

/-- A command packet: a 32-bit header and the payload bytes the transport delivered with it (R50). -/
structure Packet where
  hdr : Reg
  payload : List Byte
deriving DecidableEq, Repr

/-- A response (R60): `err` is 0 on success, `word` is there only for `BANKRD`, `WGET` and `RDERRW`. -/
structure Response where
  err : BitVec 8
  val : Reg
  word : Option Word
deriving DecidableEq, Repr

end Sys2Proof
end

