-- ==== Sys2Proof/Decode.lean ====
section
/-! DEFINITION. Decoding and encoding of command packets (R50 to R59, R64), and the byte-serial form of packets and
responses (R39, R52, R60). -/

namespace Sys2Proof

/-- Header bits 31:24 (R52). -/
def opField (hdr : Reg) : BitVec 8 := hdr.extractLsb' 24 8

/-- Header bits 23:0 (R52). -/
def immField (hdr : Reg) : Imm := hdr.extractLsb' 0 24

/-- Why a packet spells no command: the cases (a), (b) and (c), and (d) of R56, and, for a byte string on a byte-serial
transport, one too short to hold a header. All of them are `IllegalCommand` to the host (R135). -/
inductive DecodeError where
  | unassignedOpcode
  | reservedImm
  | strayPayload
  | truncatedHeader
deriving DecidableEq, Repr

/-- Format N: `imm` must be 0 and there is no payload (R53). -/
def decodeN (p : Packet) (i : Instr) : Except DecodeError Instr :=
  if immField p.hdr ≠ 0 then .error .reservedImm
  else if p.payload ≠ [] then .error .strayPayload
  else .ok i

/-- Format I: the operand is `imm[k-1:0]`, the bits above it must be 0 and there is no payload (R53, R54). -/
def decodeI (k : Nat) (p : Packet) (f : BitVec k → Instr) : Except DecodeError Instr :=
  if (immField p.hdr).toNat / 2 ^ k ≠ 0 then .error .reservedImm
  else if p.payload ≠ [] then .error .strayPayload
  else .ok (f ((immField p.hdr).setWidth k))

/-- Format W: `imm` must be 0 and the payload is the word (R53). -/
def decodeW (p : Packet) (f : Word → Instr) : Except DecodeError Instr :=
  if immField p.hdr ≠ 0 then .error .reservedImm else .ok (f p.payload)

/-- Decoding is total: every packet is one command of R55 with its operand, or is rejected by name (R56, R57). -/
def decode (p : Packet) : Except DecodeError Instr :=
  match (opField p.hdr).toNat with
  | 0x01 => decodeN p .nop
  | 0x02 => decodeN p .clear
  | 0x03 => decodeI 24 p .rdreg
  | 0x04 => decodeN p .clrerr
  | 0x05 => decodeN p .rderrw
  | 0x10 => decodeW p .bankpush
  | 0x11 => decodeN p .build
  | 0x12 => decodeW p .lookup
  | 0x13 => decodeI 11 p .bankrd
  | 0x20 => decodeN p .bclr
  | 0x21 => decodeI 8 p .bpush
  | 0x22 => decodeI 24 p .brd
  | 0x24 => decodeN p .dclr
  | 0x25 => decodeI 11 p .dpush
  | 0x26 => decodeI 24 p .drd
  | 0x27 => decodeW p .wpush
  | 0x28 => decodeI 24 p .wget
  | 0x30 => decodeI 24 p .wlen
  | 0x31 => decodeI 24 p .blen
  | 0x32 => decodeN p .drop1
  | 0x40 => decodeN p .b2d
  | 0x41 => decodeN p .d2b
  | 0x50 => decodeN p .csapp
  | 0x51 => decodeN p .csver
  | 0x52 => decodeN p .encode
  | 0x53 => decodeN p .decode
  | _ => .error .unassignedOpcode

/-- The opcode of a command (R55). -/
def opcode : Instr → BitVec 8
  | .nop => 0x01
  | .clear => 0x02
  | .rdreg _ => 0x03
  | .clrerr => 0x04
  | .rderrw => 0x05
  | .bankpush _ => 0x10
  | .build => 0x11
  | .lookup _ => 0x12
  | .bankrd _ => 0x13
  | .bclr => 0x20
  | .bpush _ => 0x21
  | .brd _ => 0x22
  | .dclr => 0x24
  | .dpush _ => 0x25
  | .drd _ => 0x26
  | .wpush _ => 0x27
  | .wget _ => 0x28
  | .wlen _ => 0x30
  | .blen _ => 0x31
  | .drop1 => 0x32
  | .b2d => 0x40
  | .d2b => 0x41
  | .csapp => 0x50
  | .csver => 0x51
  | .encode => 0x52
  | .decode => 0x53

/-- The immediate of a command: its format-I operand zero-extended to 24 bits, and 0 for formats N and W (R53, R54). -/
def immediate : Instr → Imm
  | .rdreg r => r
  | .bankrd d => d.setWidth 24
  | .bpush b => b.setWidth 24
  | .brd a => a
  | .dpush d => d.setWidth 24
  | .drd j => j
  | .wget j => j
  | .wlen n => n
  | .blen w => w
  | .nop => 0
  | .clear => 0
  | .clrerr => 0
  | .rderrw => 0
  | .bankpush _ => 0
  | .build => 0
  | .lookup _ => 0
  | .bclr => 0
  | .dclr => 0
  | .wpush _ => 0
  | .drop1 => 0
  | .b2d => 0
  | .d2b => 0
  | .csapp => 0
  | .csver => 0
  | .encode => 0
  | .decode => 0

/-- The payload bytes of a command: the word of a format-W command, none otherwise (R51, R53). -/
def payloadOf : Instr → List Byte
  | .bankpush x => x
  | .lookup x => x
  | .wpush x => x
  | .nop => []
  | .clear => []
  | .rdreg _ => []
  | .clrerr => []
  | .rderrw => []
  | .build => []
  | .bankrd _ => []
  | .bclr => []
  | .bpush _ => []
  | .brd _ => []
  | .dclr => []
  | .dpush _ => []
  | .drd _ => []
  | .wget _ => []
  | .wlen _ => []
  | .blen _ => []
  | .drop1 => []
  | .b2d => []
  | .d2b => []
  | .csapp => []
  | .csver => []
  | .encode => []
  | .decode => []

/-- `hdr` of R12: the header of a command, `op` above `imm` (R52, R55). A legal packet's header is a function of the
command it spells, so the meaning of a command can name it. -/
def header (i : Instr) : Reg := opcode i ++ immediate i

/-- The packet of a command. -/
def encode (i : Instr) : Packet := ⟨header i, payloadOf i⟩

/-- The three packet formats (R53). -/
inductive Format where
  | n
  | i
  | w
deriving DecidableEq, Repr

/-- One row of spec/opcode_table.json: a header `h` spells the row's command when `h AND mask = value` (R64). -/
structure OpcodeRow where
  value : Reg
  mask : Reg
  format : Format
deriving DecidableEq, Repr

/-- The opcode table (R64), transcribed from spec/opcode_table.json independently of `decode`. -/
def opcodeTable : List OpcodeRow :=
  [⟨0x01000000, 0xFFFFFFFF, .n⟩, ⟨0x02000000, 0xFFFFFFFF, .n⟩, ⟨0x03000000, 0xFF000000, .i⟩,
   ⟨0x04000000, 0xFFFFFFFF, .n⟩, ⟨0x05000000, 0xFFFFFFFF, .n⟩, ⟨0x10000000, 0xFFFFFFFF, .w⟩,
   ⟨0x11000000, 0xFFFFFFFF, .n⟩, ⟨0x12000000, 0xFFFFFFFF, .w⟩, ⟨0x13000000, 0xFFFFF800, .i⟩] ++
  [⟨0x20000000, 0xFFFFFFFF, .n⟩, ⟨0x21000000, 0xFFFFFF00, .i⟩, ⟨0x22000000, 0xFF000000, .i⟩,
   ⟨0x24000000, 0xFFFFFFFF, .n⟩, ⟨0x25000000, 0xFFFFF800, .i⟩, ⟨0x26000000, 0xFF000000, .i⟩,
   ⟨0x27000000, 0xFFFFFFFF, .w⟩, ⟨0x28000000, 0xFF000000, .i⟩, ⟨0x30000000, 0xFF000000, .i⟩] ++
  [⟨0x31000000, 0xFF000000, .i⟩, ⟨0x32000000, 0xFFFFFFFF, .n⟩, ⟨0x40000000, 0xFFFFFFFF, .n⟩,
   ⟨0x41000000, 0xFFFFFFFF, .n⟩, ⟨0x50000000, 0xFFFFFFFF, .n⟩, ⟨0x51000000, 0xFFFFFFFF, .n⟩,
   ⟨0x52000000, 0xFFFFFFFF, .n⟩, ⟨0x53000000, 0xFFFFFFFF, .n⟩]

/-- A packet matches a row and meets the row's payload condition, R56(d) (R64). -/
def OpcodeRow.matches (row : OpcodeRow) (p : Packet) : Bool :=
  decide (p.hdr &&& row.mask = row.value) && (decide (row.format = .w) || decide (p.payload = []))

/-- A 32-bit value on a byte-serial transport: four bytes, bits 31:24 first (R39, R52, R60). -/
def wordBytes (v : Reg) : List Byte :=
  [v.extractLsb' 24 8, v.extractLsb' 16 8, v.extractLsb' 8 8, v.extractLsb' 0 8]

/-- A packet on a byte-serial transport: the header's four bytes and then the payload (R52). -/
def packetBytes (p : Packet) : List Byte := wordBytes p.hdr ++ p.payload

/-- The packet that one framed byte string carries (R50, R52): none when it is too short to hold a header. -/
def packetOfBytes : List Byte → Option Packet
  | b3 :: b2 :: b1 :: b0 :: rest => some ⟨b3 ++ b2 ++ b1 ++ b0, rest⟩
  | _ => none

/-- Decoding on any byte string. -/
def decodeBytes (bs : List Byte) : Except DecodeError Instr :=
  match packetOfBytes bs with
  | some p => decode p
  | none => .error .truncatedHeader

/-- A response on a byte-serial transport: `err`, then `val` most significant byte first, then the word (R60). -/
def responseBytes (r : Response) : List Byte := r.err :: wordBytes r.val ++ r.word.getD []

/-- The packet whose header is the low 32 bits of `w` and whose payload bytes, if `nbits` is above 32, are the bits
from 32 on, eight at a time: the numbering of spec/opcode_table.json, where the header is the first word. -/
def packetOfTableWord (nbits w : Nat) : Packet :=
  ⟨BitVec.ofNat 32 (w % 2 ^ nbits),
   (List.range ((nbits - 32) / 8)).map fun j => BitVec.ofNat 8 (w / 2 ^ (32 + 8 * j))⟩

/-- What the decoder reads from an instruction given as a number. -/
def decodeTableWord (nbits w : Nat) : Option Instr :=
  match decode (packetOfTableWord nbits w) with
  | .ok i => some i
  | .error _ => none

end Sys2Proof
end

