-- ==== Sys2Proof/Config.lean ====
section
/-! DEFINITION. The parameters of the block that the spec leaves OPEN (R7) and the ChecksumProvider (R115 to R120),
all of them opaque constants without a body: nothing can be proved of them but the bounds their types carry. -/

namespace Sys2Proof

/-- A ChecksumProvider of code width `k`, cut down to what a law-abiding one is free to choose (R115 to R120).
`append` and `verifyStrip` (Machine/Provider.lean) are built from it so that P1 to P4 hold whatever the three
functions are, and P5 as soon as `1 ≤ k`; and every pair of functions that obeys the laws is obtained so: `code` is the
last `k` bytes of its `append`, `alsoAccepts` its acceptance of buffers that `append` does not produce (R119, "The
converse is **not** a law"), `error` its opaque error value (R118). -/
structure Provider (k : Nat) where
  /-- the integrity code of a buffer: exactly `k` bytes (P1, P2) -/
  code : List Byte → Vector Byte k
  /-- whether a buffer of at least `k` bytes whose tail is not the code of the rest is accepted all the same -/
  alsoAccepts : List Byte → Bool
  /-- CSERR for a rejected buffer, never inspected by the block (R118) -/
  error : List Byte → BitVec 32
deriving Inhabited

namespace Config

/-- `WMAX - 1`; the type gives 1 ≤ WMAX ≤ 255 (R7). -/
opaque wmaxPred : Fin 255

/-- `BUF_CAP - 1`; the type gives 1 ≤ BUF_CAP < 2^24 (R7). -/
opaque bufCapPred : Fin 16777215

/-- `DIG_CAP - 1`; the type gives 1 ≤ DIG_CAP < 2^24 (R7). -/
opaque digCapPred : Fin 16777215

/-- `K - 1`; the type gives 1 ≤ K < 2^24 (R7, R120). -/
opaque kPred : Fin 16777215

/-- WMAX, the greatest length of a word in bytes (R7). -/
def wmax : Nat := wmaxPred.val + 1

/-- BUF_CAP, the capacity of BUF in bytes (R7). -/
def bufCap : Nat := bufCapPred.val + 1

/-- DIG_CAP, the capacity of DIG in digits (R7). -/
def digCap : Nat := digCapPred.val + 1

/-- K, the width of the provider's integrity code in bytes (R7, R115). -/
def k : Nat := kPred.val + 1

/-- The provider attached to a block whose code width is `k` (R7, R115): the same answers in every state and for
the whole life of the block. -/
opaque provider : (k : Nat) → Provider k

/-- FREE VALUE. What the physical slot `d` of BANK holds when no `BANKPUSH` has written it (R18, R153: storage "may
physically hold anything"). No state the rules reach reads it (R32); it makes the bank reads total. -/
opaque unwrittenSlot : Digit → Word

end Config
end Sys2Proof
end

