-- ==== Sys2Proof/Machine/State.lean ====
section
/-! DEFINITION. The state of the machine (R16, R29, R30), the reasons a step may stop (there is none in this machine),
and the state after reset (R33, R153). -/

namespace Sys2Proof.Machine

/-- The machine's state, plain data.

The first four fields are the parameters the step takes as arguments (R7), which the host reads as the registers 7 to
10 (R29); no command writes them (R30). The next nine are the whole architectural state of R16, with `LEN` and `CNT` the
lengths of the lists that hold `BUF` and `DIG` (R21, R22, R32). The last two are the two ends of the packet port. -/
structure State where
  /-- register 9, WMAXR: the parameter WMAX (R7, R29) -/
  wmax : Nat
  /-- register 7, BUFCAP: the parameter BUF_CAP (R7, R29) -/
  bufCap : Nat
  /-- register 8, DIGCAP: the parameter DIG_CAP (R7, R29) -/
  digCap : Nat
  /-- register 10, CSW: the parameter K (R7, R29) -/
  csw : Nat
  /-- BANK (R18): the slots written so far, slot i at position i, so min(BCNT, 2048) of them (R32) -/
  bank : List Word
  /-- BCNT (R19) -/
  bcnt : Reg
  /-- IDX (R20), a partial map from words to digits as a list of pairs, in the order `BUILD` writes it: by digit -/
  idx : List (Word × Digit)
  /-- BUF[0..LEN) (R21), the most significant byte first (R36) -/
  buf : List Byte
  /-- DIG[0..CNT) (R22), the least significant digit first (R37) -/
  dig : List Digit
  /-- STATUS (R23); its fields are read and written by the accessors of Machine/Flags.lean -/
  status : Reg
  /-- ERRINFO (R28) -/
  errinfo : Reg
  /-- ERRAUX (R28) -/
  erraux : Reg
  /-- ERRWORD (R28) -/
  errword : Word
  /-- the packets the host has still to send, in order: its program from its index `ci` on (R15, R162) -/
  program : List Packet
  /-- the responses the block has given, oldest first (R60, R146) -/
  responses : List Response
deriving DecidableEq, Repr

/-- Reasons to stop with a fault: none. Every failure the spec describes is a response of a block that goes on (R129,
R146, R147), so no instruction raises a fault. -/
inductive Fault
deriving DecidableEq, Repr

/-- Reasons to refuse an instruction. -/
inductive Refusal where
  /-- Raised by `exec`'s arm of an instruction that has no meaning yet (safe). Every command has its meaning, so no arm
  raises it. -/
  | notModelled (mnemonic : String)
deriving DecidableEq, Repr

/-- The outcome of a step of this machine. -/
abbrev Result := Host.Outcome State Fault Refusal

/-- The reset state (R33, R152, R153): lifecycle state UNBUILT, everything 0 and empty, the read-only registers at the
block's parameters. The host has sent nothing and the block has answered nothing (R15). -/
def State.reset : State where
  wmax := Config.wmax
  bufCap := Config.bufCap
  digCap := Config.digCap
  csw := Config.k
  bank := []
  bcnt := 0
  idx := []
  buf := []
  dig := []
  status := 0
  errinfo := 0
  erraux := 0
  errword := []
  program := []
  responses := []

end Sys2Proof.Machine
end

