-- ==== Sys2Proof/Machine/Flags.lean ====
section
/-! DEFINITION. The fields of STATUS (R23 to R28), the lifecycle states read from it (R148), and the registers LEN and
CNT (R21, R22). -/

namespace Sys2Proof.Machine

/-- Bit `n` of a register becomes `v`, every other bit stays. -/
def setBit (w : Reg) (n : Nat) (v : Bool) : Reg :=
  if v then w ||| (1#32 <<< n) else w &&& ~~~(1#32 <<< n)

/-- STATUS.ERR, bits 15:8 (R23). -/
def errField (w : Reg) : BitVec 8 := w.extractLsb' 8 8

/-- Bits 15:8 become `e`, every other bit stays. -/
def setErrField (w : Reg) (e : BitVec 8) : Reg := (w &&& 0xFFFF00FF#32) ||| (e.setWidth 32 <<< 8)

/-- STATUS.READY, bit 0 (R24). -/
def ready (s : State) : Bool := s.status.getLsbD 0

/-- STATUS.FATAL, bit 1 (R25). -/
def fatal (s : State) : Bool := s.status.getLsbD 1

/-- STATUS.FLEX, bit 2 (R26). -/
def flex (s : State) : Bool := s.status.getLsbD 2

/-- STATUS.RETRIED, bit 3 (R27). -/
def retried (s : State) : Bool := s.status.getLsbD 3

/-- STATUS.ERR (R28). -/
def err (s : State) : BitVec 8 := errField s.status

/-- `READY <- v`. -/
def setReady (v : Bool) (s : State) : State := { s with status := setBit s.status 0 v }

/-- `FATAL <- v`. -/
def setFatal (v : Bool) (s : State) : State := { s with status := setBit s.status 1 v }

/-- `FLEX <- v`. -/
def setFlex (v : Bool) (s : State) : State := { s with status := setBit s.status 2 v }

/-- `RETRIED <- v`. -/
def setRetried (v : Bool) (s : State) : State := { s with status := setBit s.status 3 v }

/-- STATUS as `RDREG 1` reads it: the reserved bits 7:4 and 31:16 read as 0 (R23). -/
def statusRead (s : State) : Reg := s.status &&& 0x0000FF0F#32

/-- LEN, the number of valid bytes in BUF (R21, R32). -/
def len (s : State) : Reg := BitVec.ofNat 32 s.buf.length

/-- CNT, the number of valid digits in DIG (R22, R32). -/
def cnt (s : State) : Reg := BitVec.ofNat 32 s.dig.length

/-- The three lifecycle states (R148). -/
inductive Lifecycle where
  | unbuilt
  | ready
  | fatal
deriving DecidableEq, Repr

/-- The lifecycle state, read from STATUS and not stored (R148). -/
def lifecycle (s : State) : Lifecycle :=
  if fatal s then .fatal else if ready s then .ready else .unbuilt

end Sys2Proof.Machine
end

