-- ==== Sys2Proof/Machine/Operands.lean ====
section
/-! DEFINITION. What is checked of a command before its own rule runs, as columns over the commands: which lifecycle
state it needs (R55, R148) and the static bound its operand breaks (R59); and the registers `RDREG` reads (R29). -/

namespace Sys2Proof.Machine

/-- The "needs" column of R55: `any` means any state with FATAL = 0, `anyFatal` also while FATAL = 1. -/
inductive Needs where
  | any
  | anyFatal
  | readyIs0
  | readyIs1
deriving DecidableEq, Repr

/-- What each command needs (R55, R148). -/
def needs : Instr → Needs
  | .nop => .anyFatal
  | .clear => .any
  | .rdreg _ => .anyFatal
  | .clrerr => .any
  | .rderrw => .anyFatal
  | .bankpush _ => .readyIs0
  | .build => .readyIs0
  | .lookup _ => .readyIs1
  | .bankrd _ => .readyIs1
  | .bclr => .any
  | .bpush _ => .any
  | .brd _ => .any
  | .dclr => .any
  | .dpush _ => .any
  | .drd _ => .any
  | .wpush _ => .readyIs1
  | .wget _ => .readyIs1
  | .wlen _ => .any
  | .blen _ => .any
  | .drop1 => .any
  | .b2d => .any
  | .d2b => .any
  | .csapp => .any
  | .csver => .any
  | .encode => .readyIs1
  | .decode => .readyIs1

/-- A word presented to a block of width `wmax`: the exclusive bound WMAX + 1 if it is too long (R59). -/
def wordBound (wmax : Nat) (x : Word) : Option Nat := if wmax < x.length then some (wmax + 1) else none

/-- The exclusive upper bound that the operand of a command breaks whatever the state is, if any (R59, R141 step 3). -/
def staticBound (wmax : Nat) : Instr → Option Nat
  | .rdreg r => if 10 < r.toNat then some 11 else none
  | .bankpush x => wordBound wmax x
  | .lookup x => wordBound wmax x
  | .wpush x => wordBound wmax x
  | .nop => none
  | .clear => none
  | .clrerr => none
  | .rderrw => none
  | .build => none
  | .bankrd _ => none
  | .bclr => none
  | .bpush _ => none
  | .brd _ => none
  | .dclr => none
  | .dpush _ => none
  | .drd _ => none
  | .wget _ => none
  | .wlen _ => none
  | .blen _ => none
  | .drop1 => none
  | .b2d => none
  | .d2b => none
  | .csapp => none
  | .csver => none
  | .encode => none
  | .decode => none

/-- The constant of register 0: RADIX above DIGIT_BITS above BYTE_BITS (R29). -/
def idValue : Reg := BitVec.ofNat 16 RADIX ++ BitVec.ofNat 8 DIGIT_BITS ++ BitVec.ofNat 8 BYTE_BITS

/-- The 32-bit register numbered `r` (R29); the prologue lets no number above 10 through, so the last arm is
register 10, CSW. -/
def readReg (s : State) (r : Nat) : Reg :=
  match r with
  | 0 => idValue
  | 1 => statusRead s
  | 2 => s.errinfo
  | 3 => s.erraux
  | 4 => len s
  | 5 => cnt s
  | 6 => s.bcnt
  | 7 => BitVec.ofNat 32 s.bufCap
  | 8 => BitVec.ofNat 32 s.digCap
  | 9 => BitVec.ofNat 32 s.wmax
  | _ => BitVec.ofNat 32 s.csw

end Sys2Proof.Machine
end

