-- ==== Sys2Proof/Machine/Ops.lean ====
section
/-! DEFINITION. The named operations over the storage spaces and the registers (R12, R34), the response (R60), taking a
failure (R129 to R131, R143 to R145), and the prologue every command runs first (R65, R141). -/

namespace Sys2Proof.Machine

/-- `MemRead(S, a, n)`: the `n` elements of a storage space from index `a` (R12). -/
def memRead {α : Type} (S : List α) (a n : Nat) : List α := (S.drop a).take n

/-- `MemWrite(S, a, n, v)`: the elements from index `a` become those of `v` (R12). At the end of a space this appends,
which raises LEN, CNT or BCNT over exactly the elements written (R32, R81). -/
def memWrite {α : Type} (S : List α) (a : Nat) (v : List α) : List α := S.take a ++ v ++ S.drop (a + v.length)

/-- `BUF, LEN <- b` (R12). -/
def setBuf (b : List Byte) (s : State) : State := { s with buf := b }

/-- `DIG, CNT <- d` (R12). -/
def setDig (d : List Digit) (s : State) : State := { s with dig := d }

/-- `BANK` and `BCNT` are written (R75). -/
def setBank (bank : List Word) (bcnt : Reg) (s : State) : State := { s with bank := bank, bcnt := bcnt }

/-- `IDX <- m` (R76). -/
def setIdx (m : List (Word × Digit)) (s : State) : State := { s with idx := m }

/-- The four error latches are written together (R28). -/
def setLatches (e : BitVec 8) (info aux : Reg) (x : Word) (s : State) : State :=
  { s with status := setErrField s.status e, errinfo := info, erraux := aux, errword := x }

/-- Everything `CLEAR` drops is dropped: the architectural state is that of reset (R33, R67, R154). -/
def clearAll (s : State) : State :=
  { s with bank := [], bcnt := 0, idx := [], buf := [], dig := [], status := 0, errinfo := 0, erraux := 0, errword := [] }

/-- Asserting reset on a running block (R152, R154): whatever the state, FATAL included, the architectural state after it
is that of reset. It is no command and no step: what asserts it is the platform's business, outside the model. -/
def assertReset (s : State) : State := clearAll s

/-- The block gives a response (R60). -/
def pushResponse (r : Response) (s : State) : State := { s with responses := s.responses ++ [r] }

/-- The word in slot `d` of BANK; a slot that no `BANKPUSH` has written holds a free value (R18, R153), and no state the
rules reach reads one (R32). -/
def bankSlot (s : State) (d : Digit) : Word := (s.bank[d.toNat]?).getD (Config.unwrittenSlot d)

/-- The saturating increment of BCNT (R19, R75). -/
def satIncr (n : Reg) : Reg := if n = 0xFFFFFFFF#32 then n else n + 1

/-- The storage spaces are in their canonical form (R31(a), R32): each is the list of exactly its written elements, so
that equal contents are equal lists, and the lengths agree with the capacities and with BCNT. -/
def Memory.wf (s : State) : Bool :=
  decide (s.buf.length ≤ s.bufCap) && decide (s.dig.length ≤ s.digCap) &&
    decide (s.bank.length = min s.bcnt.toNat 2048)

/-- The failures a command may end in, each with the detail of its row of R131. `halted` is cause (b) of `Fatal`: any
command but `NOP`, `RDREG` and `RDERRW` while FATAL = 1 (R144). -/
inductive Failure where
  | invalidBankSize (found : Reg)
  | duplicateWord (later earlier : Nat) (x : Word)
  | unrecognizedWord (position : Nat) (x : Word)
  | checksumMismatch (attempts : Nat) (cause : Option (BitVec 32))
  | illegalCommand (hdr : Reg) (payloadLength : Nat)
  | rangeError (hdr : Reg) (bound : Nat)
  | notReady (hdr : Reg)
  | sealed (hdr : Reg)
  | capacity (hdr : Reg) (needed : Nat)
  | valueOverflow (hdr : Reg) (candidate : Nat)
  | fatal (hdr : Reg) (d : Digit) (x : Word)
  | halted (hdr : Reg)
deriving DecidableEq, Repr

/-- The error code (R130). -/
def failCode : Failure → BitVec 8
  | .invalidBankSize _ => 1
  | .duplicateWord _ _ _ => 2
  | .unrecognizedWord _ _ => 3
  | .checksumMismatch _ _ => 4
  | .illegalCommand _ _ => 5
  | .rangeError _ _ => 6
  | .notReady _ => 7
  | .sealed _ => 8
  | .capacity _ _ => 9
  | .valueOverflow _ _ => 10
  | .fatal _ _ _ => 11
  | .halted _ => 11

/-- The ERRINFO column of R131, which is also the response value. -/
def failInfo : Failure → Reg
  | .invalidBankSize found => found
  | .duplicateWord later _ _ => BitVec.ofNat 32 later
  | .unrecognizedWord position _ => BitVec.ofNat 32 position
  | .checksumMismatch _ cause => cause.getD 0
  | .illegalCommand hdr _ => hdr
  | .rangeError hdr _ => hdr
  | .notReady hdr => hdr
  | .sealed hdr => hdr
  | .capacity hdr _ => hdr
  | .valueOverflow hdr _ => hdr
  | .fatal hdr _ _ => hdr
  | .halted hdr => hdr

/-- The ERRAUX column of R131; the payload length saturates at 2^32 - 1. -/
def failAux : Failure → Reg
  | .invalidBankSize _ => 2048
  | .duplicateWord _ earlier _ => BitVec.ofNat 32 earlier
  | .unrecognizedWord _ _ => 0
  | .checksumMismatch attempts _ => BitVec.ofNat 32 attempts
  | .illegalCommand _ payloadLength => BitVec.ofNat 32 (min payloadLength 0xFFFFFFFF)
  | .rangeError _ bound => BitVec.ofNat 32 bound
  | .notReady _ => 0
  | .sealed _ => 0
  | .capacity _ needed => BitVec.ofNat 32 needed
  | .valueOverflow _ candidate => BitVec.ofNat 32 candidate
  | .fatal _ d _ => d.setWidth 32
  | .halted _ => 0

/-- The ERRWORD column of R131. -/
def failWord : Failure → Word
  | .duplicateWord _ _ x => x
  | .unrecognizedWord _ x => x
  | .fatal _ _ x => x
  | .invalidBankSize _ => []
  | .checksumMismatch _ _ => []
  | .illegalCommand _ _ => []
  | .rangeError _ _ => []
  | .notReady _ => []
  | .sealed _ => []
  | .capacity _ _ => []
  | .valueOverflow _ _ => []
  | .halted _ => []

/-- Whether the failure also sets STATUS.FATAL: `WGET`'s sanity check alone (R92, R143, R144). -/
def failSetsFatal : Failure → Bool
  | .fatal _ _ _ => true
  | .invalidBankSize _ => false
  | .duplicateWord _ _ _ => false
  | .unrecognizedWord _ _ => false
  | .checksumMismatch _ _ => false
  | .illegalCommand _ _ => false
  | .rangeError _ _ => false
  | .notReady _ => false
  | .sealed _ => false
  | .capacity _ _ => false
  | .valueOverflow _ _ => false
  | .halted _ => false

/-- The response of a failing command: its code, the ERRINFO value, no word (R60). -/
def failResponse (f : Failure) : Response := ⟨failCode f, failInfo f, none⟩

/-- Taking a failure: with FATAL = 0 the four latches are written (and FATAL set, for `Fatal`), with FATAL = 1 they are
frozen; the response is given either way and nothing else changes (R129, R131, R143, R145). There is no return from it:
the block goes on with the next packet (R146, R147). -/
def raise (f : Failure) (s : State) : State :=
  if fatal s then pushResponse (failResponse f) s
  else
    let t := setLatches (failCode f) (failInfo f) (failAux f) (failWord f) s
    pushResponse (failResponse f) (if failSetsFatal f then setFatal true t else t)

/-- What a command that succeeds leaves: the state, and the value and word of its response (R60, R61). -/
structure Reply where
  st : State
  val : Reg
  word : Option Word

/-- `respond(val)` (R12). -/
def respond (val : Reg) (s : State) : Except Failure Reply := .ok ⟨s, val, none⟩

/-- `respond(val, word)` (R12). -/
def respondWord (val : Reg) (x : Word) (s : State) : Except Failure Reply := .ok ⟨s, val, some x⟩

/-- The common prologue of a decoded command: the FATAL gate, the static operand checks, the lifecycle check, in this
order (R65, R141 steps 2 to 4). -/
def prologue (i : Instr) (s : State) : Option Failure :=
  if fatal s = true ∧ needs i ≠ .anyFatal then some (.halted (header i))
  else
    match staticBound s.wmax i with
    | some bound => some (.rangeError (header i) bound)
    | none =>
      if needs i = .readyIs1 ∧ ready s = false then some (.notReady (header i))
      else if needs i = .readyIs0 ∧ ready s = true then some (.sealed (header i))
      else none

/-- How a command ends: it succeeds, its writes are made and the response has `err = 0`, or it fails and makes none of
them (R129, R143). -/
def finish (s : State) : Except Failure Reply → State
  | .ok r => pushResponse ⟨0, r.val, r.word⟩ r.st
  | .error f => raise f s

/-- Running a command: the prologue, then the command's own rule, which makes all its checks on the state before it
(R65, R129, R141, R143). -/
def command (i : Instr) (s : State) (rule : Except Failure Reply) : Result :=
  .next (match prologue i s with
    | some f => raise f s
    | none => finish s rule)

end Sys2Proof.Machine
end

