-- ==== Sys2Proof/Machine/Aligner.lean ====
section
/-! DEFINITION. The boundary aligner's commands: WLEN, BLEN, DROP1 (R100 to R102). -/

namespace Sys2Proof.Machine

/-- The value of `BLEN w`: the length in bits 27:0 and the flag in bit 31 (R61, R101). -/
def blenValue (w : Nat) : Reg :=
  BitVec.ofNat 32 (bytelen w + if flexible w then 2 ^ 31 else 0)

/-- `WLEN`'s own rule (R100). -/
def wlenRule (n : BitVec 24) (s : State) : Except Failure Reply := respond (BitVec.ofNat 32 (wordlen n.toNat)) s

/-- `WLEN` behind the common prologue (R65, R100). -/
def execWlen (n : BitVec 24) (s : State) : Result := command (.wlen n) s (wlenRule n s)

/-- `BLEN`'s own rule (R101): FLEX is not written. -/
def blenRule (w : BitVec 24) (s : State) : Except Failure Reply := respond (blenValue w.toNat) s

/-- `BLEN` behind the common prologue (R65, R101). -/
def execBlen (w : BitVec 24) (s : State) : Result := command (.blen w) s (blenRule w s)

/-- `DROP1`'s own rule (R102): the leading byte is dropped whatever its value. -/
def drop1Rule (s : State) : Except Failure Reply :=
  if s.buf.length = 0 then .error (.rangeError (header .drop1) 0)
  else respond (BitVec.ofNat 32 (s.buf.length - 1)) (setBuf (memRead s.buf 1 (s.buf.length - 1)) s)

/-- `DROP1` behind the common prologue (R65, R102). -/
def execDrop1 (s : State) : Result := command .drop1 s (drop1Rule s)

end Sys2Proof.Machine
end

