-- ==== Sys2Proof/Machine/Positional.lean ====
section
/-! DEFINITION. The radix converter as functions on sequences and unbounded natural numbers (R103 to R107), and the same
functions as bit regrouping, the way a block without a divider computes them (R38, R106). -/

namespace Sys2Proof.Machine

/-- The value of a byte string, first byte most significant (R36, R103). -/
def be (b : List Byte) : Nat := b.foldl (fun acc x => acc * 256 + x.toNat) 0

/-- The byte string of length `L` that spells `V` when V < 256^L: left zero padding to a fixed length (R103, R105). -/
def bytesBe (V : Nat) : Nat → List Byte
  | 0 => []
  | L + 1 => BitVec.ofNat 8 (V / 256 ^ L) :: bytesBe V L

/-- The `w` low base-2048 digits of `V`, least significant first, by repeated division (R104). -/
def toDigits (V : Nat) : Nat → List Digit
  | 0 => []
  | w + 1 => BitVec.ofNat 11 (V % 2048) :: toDigits (V / 2048) w

/-- The number a digit array spells, multiplying from the last digit to the first (R107). -/
def fromDigits (d : List Digit) : Nat := d.foldr (fun x acc => acc * 2048 + x.toNat) 0

/-- `k` bytes of value 0 (R11). -/
def zeros (k : Nat) : List Byte := List.replicate k 0

/-- Bit `j` of the number a byte string spells, found in the one byte that holds it; 0 at and above 8n (R38, R106). -/
def bitOfBytes (b : List Byte) (j : Nat) : Bool := ((b.reverse[j / 8]?).getD 0).getLsbD (j % 8)

/-- Bit `j` of the number a digit array spells, found in the one digit that holds it; 0 at and above 11w (R106). -/
def bitOfDigits (d : List Digit) (j : Nat) : Bool := ((d[j / 11]?).getD 0).getLsbD (j % 11)

/-- The number whose bit `t` is `f (lo + t)`, for t below `n`: a slice of `n` bits from bit `lo` on (R10). -/
def bitSlice (f : Nat → Bool) (lo n : Nat) : Nat :=
  ((List.range n).map fun t => (f (lo + t)).toNat * 2 ^ t).sum

/-- `toDigits(be(b), w)` by regrouping: digit i is bits 11i to 11i+10 (R106). -/
def regroupToDigits (b : List Byte) (w : Nat) : List Digit :=
  (List.range w).map fun i => BitVec.ofNat 11 (bitSlice (bitOfBytes b) (11 * i) 11)

/-- `bytes_be(fromDigits(d), L)` by regrouping: byte L-1-m is bits 8m to 8m+7 (R106). -/
def regroupToBytes (d : List Digit) (L : Nat) : List Byte :=
  ((List.range L).map fun m => BitVec.ofNat 8 (bitSlice (bitOfDigits d) (8 * m) 8)).reverse

/-- `fromDigits(d) < 256^L` by regrouping: every bit from 8L up is 0 (R106). -/
def regroupFits (d : List Digit) (L : Nat) : Bool :=
  (List.range (11 * d.length - 8 * L)).all fun t => !bitOfDigits d (8 * L + t)

end Sys2Proof.Machine
end

