-- ==== Sys2Proof/Machine/Provider.lean ====
section
/-! DEFINITION. The two requests of the ChecksumProvider port (R115 to R120, R150). -/

namespace Sys2Proof.Machine

/-- `append(b)`: the bytes followed by their integrity code (R116, R117). -/
def append {k : Nat} (pv : Provider k) (b : List Byte) : List Byte := b ++ (pv.code b).toList

/-- `verifyStrip(c)`: `ok p` with p = c without its last K bytes, or `fail e` with the provider's error (R118); always
accepts what `append` gives (R119) and never a buffer shorter than K (R120). -/
def verifyStrip {k : Nat} (pv : Provider k) (c : List Byte) : Except (BitVec 32) (List Byte) :=
  if c.length < k then .error (pv.error c)
  else
    let p := c.take (c.length - k)
    if c.drop (c.length - k) = (pv.code p).toList ∨ pv.alsoAccepts c = true then .ok p
    else .error (pv.error c)

end Sys2Proof.Machine
end

