-- ==== Sys2Proof/Machine/CodecFunctions.lean ====
section
/-! DEFINITION. Bank construction and lookup (R71 to R73) and the encode and decode flows (R111 to R114) as functions;
no capacity bounds them (R8). -/

namespace Sys2Proof.Machine

/-- Why a bank is no codec (R72). -/
inductive ConstructFailure where
  | invalidBankSize (found : Nat)
  | duplicateWord (word : Word) (later earlier : Nat)
deriving DecidableEq, Repr

/-- The first repeated word of `seen ++ rest` whose later copy is in `rest`: the word, the least later index, and the
least index that holds the same word (R72). Nothing in `seen` is repeated. -/
def firstDuplicate (seen : List Word) : List Word → Option (Word × Nat × Nat)
  | [] => none
  | x :: rest =>
    match seen.idxOf? x with
    | some i => some (x, seen.length, i)
    | none => firstDuplicate (seen ++ [x]) rest

/-- The reverse index of a bank: `B[d] ↦ d`, in the order of the digits (R20, R72). -/
def indexOf (bank : List Word) : List (Word × Digit) :=
  bank.zipIdx.map fun e => (e.1, BitVec.ofNat 11 e.2)

/-- Construction, as a function of a candidate bank of any length; the size is checked first (R72). -/
def construct (bank : List Word) : Except ConstructFailure (List (Word × Digit)) :=
  if bank.length ≠ 2048 then .error (.invalidBankSize bank.length)
  else
    match firstDuplicate [] bank with
    | some (x, later, earlier) => .error (.duplicateWord x later earlier)
    | none => .ok (indexOf bank)

/-- The CAM: the digit of a word, or a miss; bytewise equality and nothing else (R17, R73, R79). -/
def lookup (idx : List (Word × Digit)) (x : Word) : Option Digit := idx.lookup x

/-- The digits of the encoded message of a payload (R112). -/
def encodeDigits {k : Nat} (pv : Provider k) (p : List Byte) : List Digit :=
  let a := append pv p
  toDigits (be a) (wordlen a.length)

/-- The encoded message of a payload, first word = digit 0; `none` only if the bank lacks one of the digits, which a
constructed bank does not (R112). -/
def encodeMessage {k : Nat} (pv : Provider k) (bank : List Word) (p : List Byte) : Option (List Word) :=
  (encodeDigits pv p).mapM fun d => bank[d.toNat]?

/-- `ChecksumMismatch` (R113): how many verifications were made, and the error of the last one if there was one. -/
structure Mismatch where
  attempts : Nat
  cause : Option (BitVec 32)
deriving DecidableEq, Repr

/-- Decoding a digit array to its payload, and whether the second length hypothesis was the one that verified: length L
first, then, once and only if the digit count is flexible, the candidate without its leading byte (R113). -/
def decodeDigits {k : Nat} (pv : Provider k) (d : List Digit) : Except Mismatch (List Byte × Bool) :=
  let L := bytelen d.length
  let V := fromDigits d
  if 256 ^ L ≤ V then .error ⟨0, none⟩
  else
    let c := bytesBe V L
    match verifyStrip pv c with
    | .ok p => .ok (p, false)
    | .error e1 =>
      if flexible d.length = false then .error ⟨1, some e1⟩
      else
        match verifyStrip pv (c.drop 1) with
        | .ok p => .ok (p, true)
        | .error e2 => .error ⟨2, some e2⟩

/-- Why a message does not decode (R113): the two errors the source allows. -/
inductive DecodeFailure where
  | unrecognizedWord (word : Word) (position : Nat)
  | checksumMismatch (m : Mismatch)
deriving DecidableEq, Repr

/-- The digits of a word sequence, looked up in order from `position` on; the first unknown word fails (R113, R114). -/
def lookupAll (idx : List (Word × Digit)) (position : Nat) : List Word → Except DecodeFailure (List Digit)
  | [] => .ok []
  | x :: rest =>
    match lookup idx x with
    | none => .error (.unrecognizedWord x position)
    | some d =>
      match lookupAll idx (position + 1) rest with
      | .ok ds => .ok (d :: ds)
      | .error e => .error e

/-- Decoding a word sequence: all lookups before any arithmetic (R113, R114). -/
def decodeMessage {k : Nat} (pv : Provider k) (idx : List (Word × Digit)) (ws : List Word) :
    Except DecodeFailure (List Byte) :=
  match lookupAll idx 0 ws with
  | .error e => .error e
  | .ok d =>
    match decodeDigits pv d with
    | .ok (p, _) => .ok p
    | .error m => .error (.checksumMismatch m)

end Sys2Proof.Machine
end

