-- ==== Sys2Proof/Machine/Bank.lean ====
section
/-! DEFINITION. The word bank and the reverse-index CAM: BANKPUSH, BUILD, LOOKUP, BANKRD (R75 to R78). -/

namespace Sys2Proof.Machine

/-- `BANKPUSH`'s own rule (R75): the word goes to slot BCNT if there is one; the push is counted either way. -/
def bankpushRule (x : Word) (s : State) : Except Failure Reply :=
  respond (satIncr s.bcnt)
    (setBank (if s.bcnt.toNat < 2048 then memWrite s.bank s.bcnt.toNat [x] else s.bank) (satIncr s.bcnt) s)

/-- `BANKPUSH` behind the common prologue (R65, R75). -/
def execBankpush (x : Word) (s : State) : Result := command (.bankpush x) s (bankpushRule x s)

/-- `BUILD`'s own rule (R76): the size first, then the least later duplicate; on success the index is built whole and
READY is set. -/
def buildRule (s : State) : Except Failure Reply :=
  if s.bcnt ≠ 2048 then .error (.invalidBankSize s.bcnt)
  else
    match firstDuplicate [] s.bank with
    | some (x, later, earlier) => .error (.duplicateWord later earlier x)
    | none => respond 0 (setReady true (setIdx (indexOf s.bank) s))

/-- `BUILD` behind the common prologue (R65, R76). -/
def execBuild (s : State) : Result := command .build s (buildRule s)

/-- `LOOKUP`'s own rule (R77). -/
def lookupRule (x : Word) (s : State) : Except Failure Reply :=
  match lookup s.idx x with
  | some d => respond (d.setWidth 32) s
  | none => .error (.unrecognizedWord 0 x)

/-- `LOOKUP` behind the common prologue (R65, R77). -/
def execLookup (x : Word) (s : State) : Result := command (.lookup x) s (lookupRule x s)

/-- `BANKRD`'s own rule (R78). -/
def bankrdRule (d : Digit) (s : State) : Except Failure Reply :=
  respondWord (BitVec.ofNat 32 (bankSlot s d).length) (bankSlot s d) s

/-- `BANKRD` behind the common prologue (R65, R78). -/
def execBankrd (d : Digit) (s : State) : Result := command (.bankrd d) s (bankrdRule d s)

end Sys2Proof.Machine
end

