-- ==== Sys2Proof/Machine/Buffers.lean ====
section
/-! DEFINITION. The working arrays: BCLR, BPUSH, BRD, DCLR, DPUSH, DRD, WPUSH, WGET (R85 to R92). -/

namespace Sys2Proof.Machine

/-- `BCLR`'s own rule (R85). -/
def bclrRule (s : State) : Except Failure Reply := respond 0 (setBuf [] s)

/-- `BCLR` behind the common prologue (R65, R85). -/
def execBclr (s : State) : Result := command .bclr s (bclrRule s)

/-- `BPUSH`'s own rule (R86). -/
def bpushRule (b : Byte) (s : State) : Except Failure Reply :=
  if s.buf.length = s.bufCap then .error (.capacity (header (.bpush b)) (s.bufCap + 1))
  else respond (BitVec.ofNat 32 (s.buf.length + 1)) (setBuf (memWrite s.buf s.buf.length [b]) s)

/-- `BPUSH` behind the common prologue (R65, R86). -/
def execBpush (b : Byte) (s : State) : Result := command (.bpush b) s (bpushRule b s)

/-- `BRD`'s own rule (R87): the bound is LEN, not the capacity. -/
def brdRule (a : BitVec 24) (s : State) : Except Failure Reply :=
  match s.buf[a.toNat]? with
  | some b => respond (b.setWidth 32) s
  | none => .error (.rangeError (header (.brd a)) s.buf.length)

/-- `BRD` behind the common prologue (R65, R87). -/
def execBrd (a : BitVec 24) (s : State) : Result := command (.brd a) s (brdRule a s)

/-- `DCLR`'s own rule (R88). -/
def dclrRule (s : State) : Except Failure Reply := respond 0 (setDig [] s)

/-- `DCLR` behind the common prologue (R65, R88). -/
def execDclr (s : State) : Result := command .dclr s (dclrRule s)

/-- `DPUSH`'s own rule (R89). -/
def dpushRule (d : Digit) (s : State) : Except Failure Reply :=
  if s.dig.length = s.digCap then .error (.capacity (header (.dpush d)) (s.digCap + 1))
  else respond (BitVec.ofNat 32 (s.dig.length + 1)) (setDig (memWrite s.dig s.dig.length [d]) s)

/-- `DPUSH` behind the common prologue (R65, R89). -/
def execDpush (d : Digit) (s : State) : Result := command (.dpush d) s (dpushRule d s)

/-- `DRD`'s own rule (R90). -/
def drdRule (j : BitVec 24) (s : State) : Except Failure Reply :=
  match s.dig[j.toNat]? with
  | some d => respond (d.setWidth 32) s
  | none => .error (.rangeError (header (.drd j)) s.dig.length)

/-- `DRD` behind the common prologue (R65, R90). -/
def execDrd (j : BitVec 24) (s : State) : Result := command (.drd j) s (drdRule j s)

/-- `WPUSH`'s own rule (R91): the lookup before the capacity; a miss names the position the word would have taken. -/
def wpushRule (x : Word) (s : State) : Except Failure Reply :=
  match lookup s.idx x with
  | none => .error (.unrecognizedWord s.dig.length x)
  | some d =>
    if s.dig.length = s.digCap then .error (.capacity (header (.wpush x)) (s.digCap + 1))
    else respond (d.setWidth 32) (setDig (memWrite s.dig s.dig.length [d]) s)

/-- `WPUSH` behind the common prologue (R65, R91). -/
def execWpush (x : Word) (s : State) : Result := command (.wpush x) s (wpushRule x s)

/-- `WGET`'s own rule (R92): the word read must index back to its digit, or the failure is `Fatal`. -/
def wgetRule (j : BitVec 24) (s : State) : Except Failure Reply :=
  match s.dig[j.toNat]? with
  | none => .error (.rangeError (header (.wget j)) s.dig.length)
  | some d =>
    if lookup s.idx (bankSlot s d) = some d then respondWord (d.setWidth 32) (bankSlot s d) s
    else .error (.fatal (header (.wget j)) d (bankSlot s d))

/-- `WGET` behind the common prologue (R65, R92). -/
def execWget (j : BitVec 24) (s : State) : Result := command (.wget j) s (wgetRule j s)

end Sys2Proof.Machine
end

