-- ==== Sys2Proof/Machine/Codec.lean ====
section
/-! DEFINITION. The commands that ask the ChecksumProvider: CSAPP, CSVER, ENCODE, DECODE (R121 to R124). Each rule is
written for any provider; the meaning of the command gives it the one attached to the block (R115, R150). -/

namespace Sys2Proof.Machine

/-- The provider attached to the block: the one of its code width K, the same in every state (R115, R150). -/
def attached (s : State) : Provider s.csw := Config.provider s.csw

/-- `CSAPP`'s own rule (R121). -/
def csappRule {k : Nat} (pv : Provider k) (s : State) : Except Failure Reply :=
  if s.bufCap < s.buf.length + k then .error (.capacity (header .csapp) (s.buf.length + k))
  else respond (BitVec.ofNat 32 (s.buf.length + k)) (setBuf (append pv s.buf) s)

/-- `CSVER`'s own rule (R122). -/
def csverRule {k : Nat} (pv : Provider k) (s : State) : Except Failure Reply :=
  match verifyStrip pv s.buf with
  | .error e => .error (.checksumMismatch 1 (some e))
  | .ok p => respond (BitVec.ofNat 32 p.length) (setBuf p s)

/-- `ENCODE`'s own rule (R123): the bytes before the digits; the augmented buffer stays in BUF. -/
def encodeRule {k : Nat} (pv : Provider k) (s : State) : Except Failure Reply :=
  if s.bufCap < s.buf.length + k then .error (.capacity (header .encode) (s.buf.length + k))
  else if s.digCap < wordlen (s.buf.length + k) then
    .error (.capacity (header .encode) (wordlen (s.buf.length + k)))
  else
    respond (BitVec.ofNat 32 (wordlen (s.buf.length + k)))
      (setDig (encodeDigits pv s.buf) (setBuf (append pv s.buf) s))

/-- `DECODE`'s own rule (R124): FLEX is the ambiguity of the digit count, RETRIED which hypothesis verified; on a failure
nothing but the latches is written. -/
def decodeRule {k : Nat} (pv : Provider k) (s : State) : Except Failure Reply :=
  if s.bufCap < bytelen s.dig.length then .error (.capacity (header .decode) (bytelen s.dig.length))
  else
    match decodeDigits pv s.dig with
    | .ok (p, again) =>
      respond (BitVec.ofNat 32 p.length) (setRetried again (setFlex (flexible s.dig.length) (setBuf p s)))
    | .error m => .error (.checksumMismatch m.attempts m.cause)

/-- `CSAPP` behind the common prologue (R65, R121). -/
def execCsapp (s : State) : Result := command .csapp s (csappRule (attached s) s)

/-- `CSVER` behind the common prologue (R65, R122). -/
def execCsver (s : State) : Result := command .csver s (csverRule (attached s) s)

/-- `ENCODE` behind the common prologue (R65, R123). -/
def execEncode (s : State) : Result := command .encode s (encodeRule (attached s) s)

/-- `DECODE` behind the common prologue (R65, R124). -/
def execDecode (s : State) : Result := command .decode s (decodeRule (attached s) s)

end Sys2Proof.Machine
end

