-- ==== Sys2Proof/Machine/Radix.lean ====
section
/-! DEFINITION. The radix converter's commands: B2D, D2B (R109, R110). -/

namespace Sys2Proof.Machine

/-- `B2D`'s own rule (R109). -/
def b2dRule (s : State) : Except Failure Reply :=
  if s.digCap < wordlen s.buf.length then .error (.capacity (header .b2d) (wordlen s.buf.length))
  else
    respond (BitVec.ofNat 32 (wordlen s.buf.length)) (setDig (toDigits (be s.buf) (wordlen s.buf.length)) s)

/-- `B2D` behind the common prologue (R65, R109). -/
def execB2d (s : State) : Result := command .b2d s (b2dRule s)

/-- `D2B`'s own rule (R110): the capacity before the value; the candidate has always exactly bytelen(CNT) bytes. -/
def d2bRule (s : State) : Except Failure Reply :=
  if s.bufCap < bytelen s.dig.length then .error (.capacity (header .d2b) (bytelen s.dig.length))
  else if 256 ^ bytelen s.dig.length ≤ fromDigits s.dig then
    .error (.valueOverflow (header .d2b) (bytelen s.dig.length))
  else
    respond (BitVec.ofNat 32 (bytelen s.dig.length))
      (setFlex (flexible s.dig.length) (setBuf (bytesBe (fromDigits s.dig) (bytelen s.dig.length)) s))

/-- `D2B` behind the common prologue (R65, R110). -/
def execD2b (s : State) : Result := command .d2b s (d2bRule s)

end Sys2Proof.Machine
end

