-- ==== Sys2Proof/Machine/System.lean ====
section
/-! DEFINITION. The system commands NOP, CLEAR, RDREG, CLRERR, RDERRW (R66 to R70). -/

namespace Sys2Proof.Machine

/-- `NOP`'s own rule (R66). -/
def nopRule (s : State) : Except Failure Reply := respond 0 s

/-- `NOP` behind the common prologue (R65, R66). -/
def execNop (s : State) : Result := command .nop s (nopRule s)

/-- `CLEAR`'s own rule (R67, R154). -/
def clearRule (s : State) : Except Failure Reply := respond 0 (clearAll s)

/-- `CLEAR` behind the common prologue (R65, R67). -/
def execClear (s : State) : Result := command .clear s (clearRule s)

/-- `RDREG`'s own rule (R68). -/
def rdregRule (r : BitVec 24) (s : State) : Except Failure Reply := respond (readReg s r.toNat) s

/-- `RDREG` behind the common prologue (R65, R68). -/
def execRdreg (r : BitVec 24) (s : State) : Result := command (.rdreg r) s (rdregRule r s)

/-- `CLRERR`'s own rule (R69). -/
def clrerrRule (s : State) : Except Failure Reply := respond 0 (setLatches 0 0 0 [] s)

/-- `CLRERR` behind the common prologue (R65, R69). -/
def execClrerr (s : State) : Result := command .clrerr s (clrerrRule s)

/-- `RDERRW`'s own rule (R70). -/
def rderrwRule (s : State) : Except Failure Reply := respondWord (BitVec.ofNat 32 s.errword.length) s.errword s

/-- `RDERRW` behind the common prologue (R65, R70). -/
def execRderrw (s : State) : Result := command .rderrw s (rderrwRule s)

end Sys2Proof.Machine
end

