-- ==== Sys2Proof/Machine/Dispatch.lean ====
section
/-! DEFINITION. One arm per command, each one direct call of the command's meaning. -/

namespace Sys2Proof.Machine

def exec (i : Instr) (s : State) : Host.Outcome State Fault Refusal :=
  match i with
  | .nop => Sys2Proof.Machine.execNop s
  | .clear => Sys2Proof.Machine.execClear s
  | .rdreg r => Sys2Proof.Machine.execRdreg r s
  | .clrerr => Sys2Proof.Machine.execClrerr s
  | .rderrw => Sys2Proof.Machine.execRderrw s
  | .bankpush x => Sys2Proof.Machine.execBankpush x s
  | .build => Sys2Proof.Machine.execBuild s
  | .lookup x => Sys2Proof.Machine.execLookup x s
  | .bankrd d => Sys2Proof.Machine.execBankrd d s
  | .bclr => Sys2Proof.Machine.execBclr s
  | .bpush b => Sys2Proof.Machine.execBpush b s
  | .brd a => Sys2Proof.Machine.execBrd a s
  | .dclr => Sys2Proof.Machine.execDclr s
  | .dpush d => Sys2Proof.Machine.execDpush d s
  | .drd j => Sys2Proof.Machine.execDrd j s
  | .wpush x => Sys2Proof.Machine.execWpush x s
  | .wget j => Sys2Proof.Machine.execWget j s
  | .wlen n => Sys2Proof.Machine.execWlen n s
  | .blen w => Sys2Proof.Machine.execBlen w s
  | .drop1 => Sys2Proof.Machine.execDrop1 s
  | .b2d => Sys2Proof.Machine.execB2d s
  | .d2b => Sys2Proof.Machine.execD2b s
  | .csapp => Sys2Proof.Machine.execCsapp s
  | .csver => Sys2Proof.Machine.execCsver s
  | .encode => Sys2Proof.Machine.execEncode s
  | .decode => Sys2Proof.Machine.execDecode s

end Sys2Proof.Machine
end

