-- ==== Sys2Proof/Machine/Step.lean ====
section
/-! DEFINITION. One step: the block takes the next packet the host sends, runs it and answers it (R15, R43, R162). -/

namespace Sys2Proof.Machine

/-- The host sends its next packet: its program moves on by one (R15). -/
def setProgram (program : List Packet) (s : State) : State := { s with program := program }

/-- The block runs one packet: a legal packet is its command, an illegal one fails with `IllegalCommand` in every
lifecycle state (R56, R135, R141 step 1). -/
def stepPacket (p : Packet) (s : State) : Host.Outcome State Fault Refusal :=
  match Sys2Proof.decode p with
  | .ok i => exec i s
  | .error _ => .next (raise (.illegalCommand p.hdr p.payload.length) s)

/-- One step of the machine: the next packet of the host's program, whatever the response to the one before it (R146);
with no packet to take, the block holds its state and does nothing (R167). -/
def step (s : State) : Host.Outcome State Fault Refusal :=
  match s.program with
  | [] => .next s
  | p :: rest => stepPacket p (setProgram rest s)

/-- `s` with an instruction, given as a number the way spec/opcode_table.json numbers its bits, as the next packet that
the host sends; the rest of the host's program comes after it. -/
def State.withFetchWord (s : State) (nbits w : Nat) : State :=
  { s with program := packetOfTableWord nbits w :: s.program }

end Sys2Proof.Machine
end

