-- ==== Sys2Proof/Machine/Procedures.lean ====
section
/-! DEFINITION. The host's side of the packet port: the step as a function from a state and a packet to a state and a
response (R15), a run over a list of packets (R146), and the source's three operations as command sequences with their
errors (R127, R128, R151, R155). -/

namespace Sys2Proof.Machine

/-- `step(state, packet) = (state', response)` (R15): one step with `p` as the host's whole program, and the response it
gave; the host's own program and the earlier responses are put back. `none` would be a step that stopped. -/
def transact (p : Packet) (s : State) : Option (State × Response) :=
  match step { s with program := [p], responses := [] } with
  | .next t =>
    match t.responses with
    | [r] => some ({ t with program := s.program, responses := s.responses }, r)
    | _ => none
  | .fault _ => none
  | .refused _ => none

/-- The run of a list of packets: the final state and the list of responses; it does not stop at a failure (R146). -/
def runPackets : List Packet → State → Option (State × List Response)
  | [], s => some (s, [])
  | p :: rest, s =>
    match transact p s with
    | none => none
    | some (t, r) =>
      match runPackets rest t with
      | none => none
      | some (u, rs) => some (u, r :: rs)

/-- The run of a host that stops at the first response with `err ≠ 0` (R127, R128, R146): the responses so far on
success, the packet that failed and its response otherwise. -/
def runUntilFailure : List Packet → State → Option (State × Except (Packet × Response) (List Response))
  | [], s => some (s, .ok [])
  | p :: rest, s =>
    match transact p s with
    | none => none
    | some (t, r) =>
      if r.err ≠ 0 then some (t, .error (p, r))
      else
        match runUntilFailure rest t with
        | none => none
        | some (u, .ok rs) => some (u, .ok (r :: rs))
        | some (u, .error e) => some (u, .error e)

/-- The source's three operations (R151). -/
inductive Operation where
  | construction
  | encode
  | decode
deriving DecidableEq, Repr

/-- What a failing response means to the operation that met it (R127, R128, R151): a failure that the source permits it, a
bank word, a payload or a message this block cannot hold, or, for every code that R151 does not give the operation, that
the host broke the interface or the block's size. -/
inductive HostError where
  | invalidBankSize (found : Reg)
  | duplicateWord (later : Reg)
  | unrecognizedWord (x : Word)
  | checksumMismatch (cause : Reg)
  | bankWordTooLong (x : Word)
  | tooLarge
  | invariantViolation
  | brokenInterface (r : Response)
deriving DecidableEq, Repr

/-- The table of R151, one row per operation: `p` is the packet that failed and `r` its response. In decode, code 6 on a
`WPUSH` is a word too long to be in the block's bank (R128). -/
def hostError (op : Operation) (p : Packet) (r : Response) : HostError :=
  match op, r.err.toNat with
  | .construction, 1 => .invalidBankSize r.val
  | .construction, 2 => .duplicateWord r.val
  | .construction, 6 => if opField p.hdr = 0x10 then .bankWordTooLong p.payload else .brokenInterface r
  | .encode, 9 => .tooLarge
  | .encode, 11 => .invariantViolation
  | .decode, 3 => .unrecognizedWord p.payload
  | .decode, 4 => .checksumMismatch r.val
  | .decode, 6 => if opField p.hdr = 0x27 then .unrecognizedWord p.payload else .brokenInterface r
  | .decode, 9 => .tooLarge
  | _, _ => .brokenInterface r

/-- The packets of a list of commands. -/
def packets (is : List Instr) : List Packet := is.map Sys2Proof.encode

/-- The value of the last response of a run. -/
def lastVal (rs : List Response) : Nat := ((rs.getLast?).map fun r => r.val.toNat).getD 0

/-- Construction of a codec from a bank (R151, R155). -/
def hostConstruct (bank : List Word) (s : State) : Option (State × Except HostError Unit) :=
  match runUntilFailure (packets (.clear :: bank.map .bankpush ++ [.build])) s with
  | none => none
  | some (t, .error (p, r)) => some (t, .error (hostError .construction p r))
  | some (t, .ok _) => some (t, .ok ())

/-- `encode(p)` of a constructed codec as the host procedure of R127. -/
def hostEncode (payload : List Byte) (s : State) : Option (State × Except HostError (List Word)) :=
  match runUntilFailure (packets (.bclr :: payload.map .bpush ++ [.encode])) s with
  | none => none
  | some (t, .error (p, r)) => some (t, .error (hostError .encode p r))
  | some (t, .ok rs) =>
    match runUntilFailure (packets ((List.range (lastVal rs)).map fun j => .wget (BitVec.ofNat 24 j))) t with
    | none => none
    | some (u, .error (p, r)) => some (u, .error (hostError .encode p r))
    | some (u, .ok ws) => some (u, .ok (ws.map fun r => r.word.getD []))

/-- `decode(ws)` of a constructed codec as the host procedure of R128. -/
def hostDecode (ws : List Word) (s : State) : Option (State × Except HostError (List Byte)) :=
  match runUntilFailure (packets (.dclr :: ws.map .wpush ++ [.decode])) s with
  | none => none
  | some (t, .error (p, r)) => some (t, .error (hostError .decode p r))
  | some (t, .ok rs) =>
    match runUntilFailure (packets ((List.range (lastVal rs)).map fun j => .brd (BitVec.ofNat 24 j))) t with
    | none => none
    | some (u, .error (p, r)) => some (u, .error (hostError .decode p r))
    | some (u, .ok bs) => some (u, .ok (bs.map fun r => r.val.setWidth 8))

end Sys2Proof.Machine
end

