-- ==== Sys2Proof/Safety.lean ====
section
/-! DEFINITION. The invariant of the machine (R31, R32 and the bounds of R7), the premise of the round trip (R125), and
the providers' laws (R116 to R120) as one predicate. -/

namespace Sys2Proof.Machine

/-- What every reachable state satisfies. R31(b), that every digit is in [0, 2047], is in the type of a digit. -/
structure Inv (s : State) : Prop where
  /-- the bounds of WMAX (R7) -/
  wmaxRange : 1 ≤ s.wmax ∧ s.wmax ≤ 255
  /-- the bounds of BUF_CAP (R7) -/
  bufCapRange : 1 ≤ s.bufCap ∧ s.bufCap < 2 ^ 24
  /-- the bounds of DIG_CAP (R7) -/
  digCapRange : 1 ≤ s.digCap ∧ s.digCap < 2 ^ 24
  /-- the bounds of K (R7, R120) -/
  cswRange : 1 ≤ s.csw ∧ s.csw < 2 ^ 24
  /-- LEN ≤ BUF_CAP, CNT ≤ DIG_CAP (R31(a)), and BANK is the list of its min(BCNT, 2048) written slots (R32) -/
  memory : Memory.wf s = true
  /-- R31(c) -/
  whenReady : ready s = true → s.bcnt = 2048 ∧ s.bank.Nodup ∧ s.idx = indexOf s.bank
  /-- R31(d) -/
  whenNotReady : ready s = false → s.idx = []
  /-- R31(e), for BANK -/
  bankWords : ∀ x ∈ s.bank, x.length ≤ s.wmax
  /-- R31(e), for ERRWORD -/
  errWord : s.errword.length ≤ s.wmax
  /-- R31(f) -/
  reserved : s.status &&& 0xFFFF00F0#32 = 0
  /-- R31(g) -/
  errCode : (err s).toNat ≤ 11
  /-- in lifecycle state FATAL, READY "keeps its value, which is 1" (R148) -/
  fatalReady : fatal s = true → ready s = true

/-- NoZeroPrefixCollision(b): the provider rejects the augmented buffer with a zero byte in front (R125). -/
def NoZeroPrefixCollision {k : Nat} (pv : Provider k) (b : List Byte) : Prop :=
  ∃ e, verifyStrip pv (0 :: append pv b) = .error e

/-- The architectural state of the block (R16) and its parameters are the same in two states: only the packet port may
differ. -/
def SameBlock (s t : State) : Prop :=
  t = { s with program := t.program, responses := t.responses }

/-- What a failing command leaves as it was, whatever the failure (R143): everything but the four latches, `FATAL` and
the responses. -/
structure KeepsWork (s t : State) : Prop where
  wmax : t.wmax = s.wmax
  bufCap : t.bufCap = s.bufCap
  digCap : t.digCap = s.digCap
  csw : t.csw = s.csw
  bank : t.bank = s.bank
  bcnt : t.bcnt = s.bcnt
  idx : t.idx = s.idx
  buf : t.buf = s.buf
  dig : t.dig = s.dig
  ready : ready t = ready s
  flex : flex t = flex s
  retried : retried t = retried s

/-- The state `s` after a successful response with value `val` and word `x` (R60): nothing but the responses differs. -/
def answered (s : State) (val : Reg) (x : Option Word) : State :=
  { s with responses := s.responses ++ [⟨0, val, x⟩] }

/-- The state `s` after a failure of code `code` while FATAL = 0 (R60, R131): the four latches and the response. -/
def failed (s : State) (code : BitVec 8) (info aux : Reg) (x : Word) : State :=
  { s with status := setErrField s.status code, errinfo := info, erraux := aux, errword := x,
           responses := s.responses ++ [⟨code, info, none⟩] }

end Sys2Proof.Machine
end

