-- ==== Sys2Proof/Certificates/Slice0/Obligations.lean ====
section
/-! DEFINITION. The statements about the machine, for the provers. -/

open Sys2Proof Sys2Proof.Machine

/-! Encoding -/

/-- Every command is what its packet decodes to, with every operand at every value its field admits (R52 to R56). -/
def Obligations.DecodeInvertsEncode : Prop :=
  ∀ i : Instr, decode (encode i) = .ok i

/-- A packet that spells a command is that command's packet: no header bit and no payload byte is dropped (R56). -/
def Obligations.LegalPacketIsItsCommandsPacket : Prop :=
  ∀ (p : Packet) (i : Instr), decode p = .ok i → encode i = p

/-- R64: a packet is legal exactly when it matches a row of the opcode table and meets its payload condition, and no
two rows match one packet. -/
def Obligations.LegalPacketsAreTheTableRows : Prop :=
  ∀ p : Packet,
    ((∃ i, decode p = .ok i) ↔ ∃ row ∈ opcodeTable, row.matches p = true) ∧
    (∀ row ∈ opcodeTable, ∀ row' ∈ opcodeTable, row.matches p = true → row'.matches p = true → row = row')

/-- R57: the 230 unassigned opcodes, written out as R57 lists them, are the ones rejected by that name. -/
def Obligations.UnassignedOpcodesAreThe230Listed : Prop :=
  ∀ p : Packet,
    decode p = .error .unassignedOpcode ↔
      (let op := p.hdr.toNat / 2 ^ 24
       op = 0 ∨ (0x06 ≤ op ∧ op ≤ 0x0F) ∨ (0x14 ≤ op ∧ op ≤ 0x1F) ∨ op = 0x23 ∨ (0x29 ≤ op ∧ op ≤ 0x2F) ∨
       (0x33 ≤ op ∧ op ≤ 0x3F) ∨ (0x42 ≤ op ∧ op ≤ 0x4F) ∨ 0x54 ≤ op)

/-- One packet of each family, written out from the encodings of R55 and the vectors of 95_test_vectors.md. -/
def Obligations.WrittenOutPacketsDecode : Prop :=
  decode ⟨0x03000001, []⟩ = .ok (.rdreg 1) ∧
  decode ⟨0x12000000, [0x77, 0x30, 0x30, 0x31, 0x31]⟩ = .ok (.lookup [0x77, 0x30, 0x30, 0x31, 0x31]) ∧
  decode ⟨0x130007FF, []⟩ = .ok (.bankrd 2047) ∧
  decode ⟨0x210000AB, []⟩ = .ok (.bpush 0xAB) ∧
  decode ⟨0x2800000E, []⟩ = .ok (.wget 14) ∧
  decode ⟨0x30FFFFFF, []⟩ = .ok (.wlen 0xFFFFFF) ∧
  decode ⟨0x41000000, []⟩ = .ok .d2b ∧
  decode ⟨0x53000000, []⟩ = .ok .decode ∧
  decode ⟨0x01000001, []⟩ = .error .reservedImm ∧
  decode ⟨0x21000100, []⟩ = .error .reservedImm ∧
  decode ⟨0x01000000, [0]⟩ = .error .strayPayload ∧
  decode ⟨0x00000000, []⟩ = .error .unassignedOpcode ∧
  decode ⟨0xFFFFFFFF, []⟩ = .error .unassignedOpcode

/-- R52, R60, R39: on a byte-serial transport the header goes first, bits 31:24 before 23:16 before 15:8 before 7:0, the
payload follows, and a packet is read back as it was sent; a response is its code, its value most significant byte first,
and its word. -/
def Obligations.SerialPacketReadsBack : Prop :=
  (∀ p : Packet,
    packetOfBytes (packetBytes p) = some p ∧
    (packetBytes p).map BitVec.toNat =
      [p.hdr.toNat / 2 ^ 24, p.hdr.toNat / 2 ^ 16 % 256, p.hdr.toNat / 2 ^ 8 % 256, p.hdr.toNat % 256] ++
        p.payload.map BitVec.toNat) ∧
  (∀ r : Response,
    (responseBytes r).map BitVec.toNat =
      [r.err.toNat, r.val.toNat / 2 ^ 24, r.val.toNat / 2 ^ 16 % 256, r.val.toNat / 2 ^ 8 % 256, r.val.toNat % 256] ++
        (r.word.getD []).map BitVec.toNat)

/-! The step -/

/-- When the host's next packet decodes to a command, the step is that command's meaning on the state from which the
packet has been taken. -/
def Obligations.StepRunsTheDecodedCommand : Prop :=
  ∀ (s : State) (p : Packet) (rest : List Packet) (i : Instr),
    s.program = p :: rest → decode p = .ok i → step s = exec i { s with program := rest }

/-- R135 (with R56 and R145): an illegal packet fails with code 5 in every lifecycle state; it writes the latches while
FATAL = 0 and nothing at all while FATAL = 1, and the block goes on. -/
def Obligations.IllegalPacketFailsInEveryState : Prop :=
  ∀ (s : State) (p : Packet) (rest : List Packet) (e : DecodeError),
    s.program = p :: rest → decode p = .error e →
      (fatal s = false →
        step s = .next (failed { s with program := rest } 5 p.hdr
          (BitVec.ofNat 32 (min p.payload.length (2 ^ 32 - 1))) [])) ∧
      (fatal s = true →
        step s = .next { s with program := rest, responses := s.responses ++ [⟨5, p.hdr, none⟩] })

/-- R60, R146: every packet, legal or not, in every state, is answered with exactly one response, and the host's program
moves on by one; with no packet to take, the block holds its state. The last clause, what a step is without a packet, is
the model's choice (log entry 2), after R167: "between packets the block holds its state and does nothing". -/
def Obligations.EveryPacketIsAnsweredOnce : Prop :=
  ∀ s : State,
    (∀ (p : Packet) (rest : List Packet), s.program = p :: rest →
      ∃ t r, step s = .next t ∧ t.program = rest ∧ t.responses = s.responses ++ [r]) ∧
    (s.program = [] → step s = .next s)

/-! Reset and the invariant -/

/-- R33, R153: the reset values, as registers and fields. -/
def Obligations.ResetValuesAsTheSpecGivesThem : Prop :=
  readReg State.reset 0 = 0x08000B08 ∧ readReg State.reset 1 = 0 ∧ readReg State.reset 2 = 0 ∧
  readReg State.reset 3 = 0 ∧ readReg State.reset 4 = 0 ∧ readReg State.reset 5 = 0 ∧ readReg State.reset 6 = 0 ∧
  readReg State.reset 7 = BitVec.ofNat 32 Config.bufCap ∧ readReg State.reset 8 = BitVec.ofNat 32 Config.digCap ∧
  readReg State.reset 9 = BitVec.ofNat 32 Config.wmax ∧ readReg State.reset 10 = BitVec.ofNat 32 Config.k ∧
  State.reset.bank = [] ∧ State.reset.idx = [] ∧ State.reset.buf = [] ∧ State.reset.dig = [] ∧
  State.reset.status = 0 ∧ State.reset.errword = [] ∧ lifecycle State.reset = .unbuilt

/-- The reset state satisfies the invariant of R31. -/
def Obligations.ResetMeetsTheInvariant : Prop := Inv State.reset

/-- R31: every step from a state that satisfies the invariant gives a state that satisfies it. -/
def Obligations.StepKeepsTheInvariant : Prop :=
  ∀ s t : State, Inv s → step s = .next t → Inv t

/-- R25: under the rules, from a state with the invariant and FATAL = 0, no step sets FATAL. -/
def Obligations.FatalIsNeverSet : Prop :=
  ∀ s t : State, Inv s → fatal s = false → step s = .next t → fatal t = false

/-- R29, R30: no step changes the parameters, which the host reads as the registers 7 to 10. -/
def Obligations.ParametersNeverChange : Prop :=
  ∀ s t : State, step s = .next t →
    t.wmax = s.wmax ∧ t.bufCap = s.bufCap ∧ t.digCap = s.digCap ∧ t.csw = s.csw

/-! Failures -/

/-- R28, R129: with FATAL = 0 a failure is reported twice, in the response and in the latches, and the two agree (a failing
response carries no word, R60); a command that succeeds leaves the latches as they are, but for `CLRERR` and `CLEAR`. -/
def Obligations.LatchesDescribeTheLastFailure : Prop :=
  ∀ (i : Instr) (s t : State) (r : Response),
    exec i s = .next t → t.responses = s.responses ++ [r] →
      (fatal s = false → r.err ≠ 0 → err t = r.err ∧ t.errinfo = r.val ∧ r.word = none) ∧
      (r.err = 0 → i ≠ .clear → i ≠ .clrerr →
        err t = err s ∧ t.errinfo = s.errinfo ∧ t.erraux = s.erraux ∧ t.errword = s.errword)

/-- R143: a failing command makes none of the writes of its pseudocode; the one exception is that `WGET`, failing with
`Fatal`, sets FATAL. -/
def Obligations.FailuresArePrecise : Prop :=
  ∀ (i : Instr) (s t : State) (r : Response),
    exec i s = .next t → t.responses = s.responses ++ [r] → r.err ≠ 0 →
      KeepsWork s t ∧ (fatal t = fatal s ∨ ∃ j, i = .wget j ∧ r.err = 11 ∧ fatal t = true)

/-- R145: while FATAL = 1 nothing of the block changes, whatever the packet, and the response is the one R145 gives. -/
def Obligations.FatalFreezesTheBlock : Prop :=
  ∀ (s : State) (p : Packet) (rest : List Packet), fatal s = true → s.program = p :: rest →
    ∃ t r, step s = .next t ∧ SameBlock s t ∧ t.responses = s.responses ++ [r] ∧
      (∀ e, decode p = .error e → r = ⟨5, p.hdr, none⟩) ∧
      (decode p = .ok .nop → r = ⟨0, 0, none⟩) ∧
      (decode p = .ok .rderrw → r = ⟨0, BitVec.ofNat 32 s.errword.length, some s.errword⟩) ∧
      (∀ n, decode p = .ok (.rdreg n) → n.toNat ≤ 10 → r = ⟨0, readReg s n.toNat, none⟩) ∧
      (∀ n, decode p = .ok (.rdreg n) → 10 < n.toNat → r = ⟨6, p.hdr, none⟩) ∧
      (∀ i, decode p = .ok i → i ≠ .nop → i ≠ .rderrw → (∀ n, i ≠ .rdreg n) → r = ⟨11, p.hdr, none⟩)

/-- R138, R142: the six commands that need a constructed codec fail with `NotReady` while READY = 0, and the two that would
change it fail with `Sealed` while READY = 1; a word among the operands is one the block can take (a longer one is
`RangeError`, R141). -/
def Obligations.LifecycleRefusals : Prop :=
  ∀ s : State, fatal s = false →
    (ready s = false →
      (∀ x : Word, x.length ≤ s.wmax → exec (.lookup x) s = .next (failed s 7 0x12000000 0 [])) ∧
      (∀ d : Digit, exec (.bankrd d) s = .next (failed s 7 (0x13000000 + d.setWidth 32) 0 [])) ∧
      (∀ x : Word, x.length ≤ s.wmax → exec (.wpush x) s = .next (failed s 7 0x27000000 0 [])) ∧
      (∀ j : BitVec 24, exec (.wget j) s = .next (failed s 7 (0x28000000 + j.setWidth 32) 0 [])) ∧
      exec .encode s = .next (failed s 7 0x52000000 0 []) ∧
      exec .decode s = .next (failed s 7 0x53000000 0 [])) ∧
    (ready s = true →
      (∀ x : Word, x.length ≤ s.wmax → exec (.bankpush x) s = .next (failed s 8 0x10000000 0 [])) ∧
      exec .build s = .next (failed s 8 0x11000000 0 []))

/-- R59, R137, R141: a word longer than WMAX and a register number above 10 are `RangeError` in both lifecycle states
UNBUILT and READY, before the lifecycle check. -/
def Obligations.StaticRangeErrorsComeFirst : Prop :=
  ∀ s : State, fatal s = false →
    (∀ x : Word, s.wmax < x.length →
      exec (.bankpush x) s = .next (failed s 6 0x10000000 (BitVec.ofNat 32 (s.wmax + 1)) []) ∧
      exec (.lookup x) s = .next (failed s 6 0x12000000 (BitVec.ofNat 32 (s.wmax + 1)) []) ∧
      exec (.wpush x) s = .next (failed s 6 0x27000000 (BitVec.ofNat 32 (s.wmax + 1)) [])) ∧
    (∀ r : BitVec 24, 10 < r.toNat → exec (.rdreg r) s = .next (failed s 6 (0x03000000 + r.setWidth 32) 11 []))

/-! Whole-machine rules -/

/-- R18, R19, R20, R24: BANK and BCNT are written by `BANKPUSH` and `CLEAR` alone, IDX and READY by `BUILD` and `CLEAR`
alone, and while READY = 1 only `CLEAR` writes any of them. -/
def Obligations.BankAndIndexWriters : Prop :=
  ∀ (i : Instr) (s t : State), exec i s = .next t →
    (t.bank ≠ s.bank ∨ t.bcnt ≠ s.bcnt → i = .clear ∨ ∃ x, i = .bankpush x) ∧
    (t.idx ≠ s.idx ∨ ready t ≠ ready s → i = .clear ∨ i = .build) ∧
    (ready s = true → i ≠ .clear →
      t.bank = s.bank ∧ t.bcnt = s.bcnt ∧ t.idx = s.idx ∧ ready t = true)

/-- R21, R22, R34: the commands that write BUF and the commands that write DIG. -/
def Obligations.WorkingArrayWriters : Prop :=
  ∀ (i : Instr) (s t : State), exec i s = .next t →
    (t.buf ≠ s.buf →
      (∃ b, i = .bpush b) ∨ i ∈ [.clear, .bclr, .drop1, .d2b, .csapp, .csver, .encode, .decode]) ∧
    (t.dig ≠ s.dig →
      (∃ d, i = .dpush d) ∨ (∃ x, i = .wpush x) ∨ i ∈ [.clear, .dclr, .b2d, .encode])

/-- R23: the commands that write each flag of STATUS. `CLEAR` writes FATAL no more than any other command does: it is 0
whenever `CLEAR` runs. -/
def Obligations.FlagWriters : Prop :=
  ∀ (i : Instr) (s t : State), exec i s = .next t →
    (ready t ≠ ready s → i = .build ∨ i = .clear) ∧
    (fatal t ≠ fatal s → fatal t = true ∧ ∃ j, i = .wget j) ∧
    (flex t ≠ flex s → i = .d2b ∨ i = .decode ∨ i = .clear) ∧
    (retried t ≠ retried s → i = .decode ∨ i = .clear)

/-- R44: the reads, when they succeed, change nothing of the block: only the response is given. -/
def Obligations.ReadsHaveNoSideEffect : Prop :=
  ∀ (i : Instr) (s t : State) (r : Response),
    ((∃ n, i = .rdreg n) ∨ i = .rderrw ∨ (∃ a, i = .brd a) ∨ (∃ j, i = .drd j) ∨ (∃ d, i = .bankrd d) ∨
      (∃ x, i = .lookup x) ∨ (∃ n, i = .wlen n) ∨ (∃ w, i = .blen w) ∨ (∃ j, i = .wget j)) →
    exec i s = .next t → t.responses = s.responses ++ [r] → r.err = 0 →
      SameBlock s t

/-- R148: how a lifecycle state is left. UNBUILT only by a `BUILD`, to READY; READY only by `CLEAR`, to UNBUILT, or by
`WGET`'s failing check, to FATAL; FATAL by no command. -/
def Obligations.LifecycleTransitions : Prop :=
  ∀ (i : Instr) (s t : State), exec i s = .next t → lifecycle t ≠ lifecycle s →
    (lifecycle s = .unbuilt ∧ lifecycle t = .ready ∧ i = .build) ∨
    (lifecycle s = .ready ∧ lifecycle t = .unbuilt ∧ i = .clear) ∨
    (lifecycle s = .ready ∧ lifecycle t = .fatal ∧ ∃ j, i = .wget j)

/-! System commands -/

/-- R66, R68, R70, R29: `NOP`, the eleven registers and `RDERRW`, in every state, FATAL included. -/
def Obligations.NopAndRegisterReadsInEveryState : Prop :=
  ∀ s : State,
    exec .nop s = .next (answered s 0 none) ∧
    exec .rderrw s = .next (answered s (BitVec.ofNat 32 s.errword.length) (some s.errword)) ∧
    ∀ (r : BitVec 24) (v : Reg),
      [(0x08000B08 : Reg), s.status &&& 0x0000FF0F, s.errinfo, s.erraux, BitVec.ofNat 32 s.buf.length,
       BitVec.ofNat 32 s.dig.length, s.bcnt, BitVec.ofNat 32 s.bufCap, BitVec.ofNat 32 s.digCap,
       BitVec.ofNat 32 s.wmax, BitVec.ofNat 32 s.csw][r.toNat]? = some v →
      exec (.rdreg r) s = .next (answered s v none)

/-- R67, R154: `CLEAR` leaves the reset state, the parameters and the packet port apart, exactly when FATAL = 0, and is
refused while FATAL = 1; reset leaves it in every state, FATAL included. The model's choice in it: that asserting reset is
a function on states (log entry 16), and that neither it nor `CLEAR` touches the packet port (log entry 2). -/
def Obligations.ClearIsReset : Prop :=
  ∀ s : State,
    (fatal s = false →
      exec .clear s = .next (answered
        { State.reset with wmax := s.wmax, bufCap := s.bufCap, digCap := s.digCap, csw := s.csw,
                           program := s.program, responses := s.responses } 0 none)) ∧
    (fatal s = true →
      exec .clear s = .next { s with responses := s.responses ++ [⟨11, 0x02000000, none⟩] }) ∧
    assertReset s =
      { State.reset with wmax := s.wmax, bufCap := s.bufCap, digCap := s.digCap, csw := s.csw,
                         program := s.program, responses := s.responses }

/-- R69: `CLRERR` clears the four latches and touches no flag and no array. -/
def Obligations.ClearErrorsClearsTheLatchesOnly : Prop :=
  ∀ s : State, fatal s = false →
    ∃ t, exec .clrerr s = .next t ∧ err t = 0 ∧ t.errinfo = 0 ∧ t.erraux = 0 ∧ t.errword = [] ∧
      t.responses = s.responses ++ [⟨0, 0, none⟩] ∧ t.program = s.program ∧ KeepsWork s t ∧ fatal t = false ∧
      (∀ n, ¬(8 ≤ n ∧ n < 16) → t.status.getLsbD n = s.status.getLsbD n)

/-! The word bank -/

/-- R75: `BANKPUSH` writes the next free slot, if there is one, and counts the push, saturating. -/
def Obligations.BankPushFillsTheNextSlot : Prop :=
  ∀ (s : State) (x : Word), Inv s → fatal s = false → ready s = false → x.length ≤ s.wmax →
    ∃ n : Reg, n.toNat = min (s.bcnt.toNat + 1) (2 ^ 32 - 1) ∧
      exec (.bankpush x) s = .next (answered
        { s with bank := if s.bcnt.toNat < 2048 then s.bank ++ [x] else s.bank, bcnt := n } n none)

/-- R76: with 2048 distinct words `BUILD` builds the whole index and sets READY, and nothing else. That it answers 0 is the
model's choice (log entry 8): so say R76, R61 and the vectors, where a comment in R155 says 2048. -/
def Obligations.BuildConstructsTheCodec : Prop :=
  ∀ s : State, Inv s → fatal s = false → ready s = false → s.bcnt = 2048 → s.bank.Nodup →
    ∃ t, exec .build s = .next (answered t 0 none) ∧ ready t = true ∧
      (∀ n, n ≠ 0 → t.status.getLsbD n = s.status.getLsbD n) ∧
      t = { s with idx := t.idx, status := t.status } ∧
      ∀ x d, lookup t.idx x = some d ↔ s.bank[d.toNat]? = some x

/-- R72, R76: the size is tested first; then the least later duplicate is reported with the least slot that holds the
same word. On a failure nothing changes but the latches. -/
def Obligations.BuildFailsOnSizeThenOnDuplicate : Prop :=
  ∀ s : State, Inv s → fatal s = false → ready s = false →
    (s.bcnt ≠ 2048 → exec .build s = .next (failed s 1 s.bcnt 2048 [])) ∧
    (∀ (i j : Nat) (x : Word), s.bcnt = 2048 → i < j → s.bank[i]? = some x → s.bank[j]? = some x →
      (∀ a, a < i → s.bank[a]? ≠ some x) →
      (∀ a b, a < b → b < j → s.bank[a]? ≠ s.bank[b]?) →
        exec .build s = .next (failed s 2 (BitVec.ofNat 32 j) (BitVec.ofNat 32 i) x))

/-- R77, R78: on a constructed codec `BANKRD` gives the word of every digit, `LOOKUP` gives the position of a bank word and
fails on any other word, naming it. -/
def Obligations.BankReadsForwardAndBack : Prop :=
  ∀ s : State, Inv s → fatal s = false → ready s = true →
    (∀ d : Digit, ∃ x, s.bank[d.toNat]? = some x ∧
      exec (.bankrd d) s = .next (answered s (BitVec.ofNat 32 x.length) (some x)) ∧
      exec (.lookup x) s = .next (answered s (d.setWidth 32) none)) ∧
    (∀ x : Word, x.length ≤ s.wmax → x ∉ s.bank → exec (.lookup x) s = .next (failed s 3 0 0 x))

/-- R80: while READY = 1 the bank and the index are inverse bijections. -/
def Obligations.BankAndIndexAreInverse : Prop :=
  ∀ s : State, Inv s → ready s = true →
    s.bank.length = 2048 ∧
    (∀ (d : Digit) (x : Word), s.bank[d.toNat]? = some x ↔ lookup s.idx x = some d) ∧
    (∀ x : Word, x ∈ s.bank ↔ ∃ d, lookup s.idx x = some d)

/-- R72: construction as a function of a candidate of any length. -/
def Obligations.ConstructionAcceptsExactlyTheValidBanks : Prop :=
  ∀ B : List Word,
    (B.length ≠ 2048 → construct B = .error (.invalidBankSize B.length)) ∧
    (B.length = 2048 → B.Nodup → construct B = .ok (indexOf B)) ∧
    (∀ (i j : Nat) (x : Word), B.length = 2048 → i < j → B[i]? = some x → B[j]? = some x →
      (∀ a, a < i → B[a]? ≠ some x) → (∀ a b, a < b → b < j → B[a]? ≠ B[b]?) →
        construct B = .error (.duplicateWord x j i)) ∧
    (B.length = 2048 → ¬B.Nodup → ∃ x j i, construct B = .error (.duplicateWord x j i))

/-! The working arrays -/

/-- R85, R88: `BCLR` and `DCLR` empty one array and touch nothing else. -/
def Obligations.ClearingAnArray : Prop :=
  ∀ s : State, fatal s = false →
    exec .bclr s = .next (answered { s with buf := [] } 0 none) ∧
    exec .dclr s = .next (answered { s with dig := [] } 0 none)

/-- R86, R89: `BPUSH` and `DPUSH` append one element, whose index is the old length, or fail on a full array. -/
def Obligations.PushingAnElement : Prop :=
  ∀ s : State, fatal s = false →
    (∀ b : Byte, s.buf.length < s.bufCap →
      exec (.bpush b) s = .next (answered { s with buf := s.buf ++ [b] } (BitVec.ofNat 32 (s.buf.length + 1)) none)) ∧
    (∀ b : Byte, s.buf.length = s.bufCap →
      exec (.bpush b) s = .next
        (failed s 9 (0x21000000 + b.setWidth 32) (BitVec.ofNat 32 (s.bufCap + 1)) [])) ∧
    (∀ d : Digit, s.dig.length < s.digCap →
      exec (.dpush d) s = .next (answered { s with dig := s.dig ++ [d] } (BitVec.ofNat 32 (s.dig.length + 1)) none)) ∧
    (∀ d : Digit, s.dig.length = s.digCap →
      exec (.dpush d) s = .next
        (failed s 9 (0x25000000 + d.setWidth 32) (BitVec.ofNat 32 (s.digCap + 1)) []))

/-- R87, R90: `BRD` and `DRD` read one element below the length, zero-extended, and fail at or above it. -/
def Obligations.ReadingAnElement : Prop :=
  ∀ (s : State) (a : BitVec 24), fatal s = false →
    (∀ b : Byte, s.buf[a.toNat]? = some b → exec (.brd a) s = .next (answered s (b.setWidth 32) none)) ∧
    (s.buf.length ≤ a.toNat →
      exec (.brd a) s = .next (failed s 6 (0x22000000 + a.setWidth 32) (BitVec.ofNat 32 s.buf.length) [])) ∧
    (∀ d : Digit, s.dig[a.toNat]? = some d → exec (.drd a) s = .next (answered s (d.setWidth 32) none)) ∧
    (s.dig.length ≤ a.toNat →
      exec (.drd a) s = .next (failed s 6 (0x26000000 + a.setWidth 32) (BitVec.ofNat 32 s.dig.length) []))

/-- R81, R32: the four pushes keep every element already in the array where it was, and add at most the one element at
the index that the length had; a push that fails leaves all three arrays and BCNT as they were (R143). -/
def Obligations.PushesKeepTheEarlierElements : Prop :=
  ∀ (i : Instr) (s t : State), Inv s → exec i s = .next t →
    (∀ b, i = .bpush b →
      t.dig = s.dig ∧ t.bank = s.bank ∧
      ∀ a : Nat, a ≠ s.buf.length → t.buf[a]? = s.buf[a]?) ∧
    ((∃ d, i = .dpush d) ∨ (∃ x, i = .wpush x) →
      t.buf = s.buf ∧ t.bank = s.bank ∧
      ∀ a : Nat, a ≠ s.dig.length → t.dig[a]? = s.dig[a]?) ∧
    (∀ x, i = .bankpush x →
      t.buf = s.buf ∧ t.dig = s.dig ∧
      ∀ a : Nat, a ≠ s.bcnt.toNat → t.bank[a]? = s.bank[a]?) ∧
    (∀ r : Response, t.responses = s.responses ++ [r] → r.err ≠ 0 →
      (∃ b, i = .bpush b) ∨ (∃ d, i = .dpush d) ∨ (∃ x, i = .wpush x) ∨ (∃ x, i = .bankpush x) →
      t.buf = s.buf ∧ t.dig = s.dig ∧ t.bank = s.bank ∧ t.bcnt = s.bcnt)

/-- R91: `WPUSH` appends the digit of a bank word; an unknown word fails before a full array does, naming its position. -/
def Obligations.WordPushAppendsItsDigit : Prop :=
  ∀ (s : State) (x : Word), Inv s → fatal s = false → ready s = true → x.length ≤ s.wmax →
    (∀ d : Digit, s.bank[d.toNat]? = some x → s.dig.length < s.digCap →
      exec (.wpush x) s = .next (answered { s with dig := s.dig ++ [d] } (d.setWidth 32) none)) ∧
    (x ∉ s.bank → exec (.wpush x) s = .next (failed s 3 (BitVec.ofNat 32 s.dig.length) 0 x)) ∧
    (x ∈ s.bank → s.dig.length = s.digCap →
      exec (.wpush x) s = .next (failed s 9 0x27000000 (BitVec.ofNat 32 (s.digCap + 1)) []))

/-- R92: `WGET` gives the digit and its word, fails beyond CNT, and in a state whose index has gone wrong sets FATAL. -/
def Obligations.WordGetReadsThroughTheBank : Prop :=
  ∀ (s : State) (j : BitVec 24), fatal s = false → ready s = true →
    (∀ (d : Digit) (x : Word), s.dig[j.toNat]? = some d → s.bank[d.toNat]? = some x →
      (lookup s.idx x = some d → exec (.wget j) s = .next (answered s (d.setWidth 32) (some x))) ∧
      (lookup s.idx x ≠ some d →
        exec (.wget j) s = .next
          (setFatal true (failed s 11 (0x28000000 + j.setWidth 32) (d.setWidth 32) x)))) ∧
    (s.dig.length ≤ j.toNat →
      exec (.wget j) s = .next (failed s 6 (0x28000000 + j.setWidth 32) (BitVec.ofNat 32 s.dig.length) []))

/-! The aligner -/

/-- R94 to R99: the candidate length is the encoded length or one more, the residues that decide which, the closed form
of the flag, and that the retry is there whenever it is needed. That the flag is false at n = 0 is the model's choice where
the rules differ (log entry 15): R98 and entry C4 of 90_conflicts.md say so, R99 alone would have it true. -/
def Obligations.LengthsThereAndBack : Prop :=
  (∀ n : Nat,
    (bytelen (wordlen n) = n ∨ bytelen (wordlen n) = n + 1) ∧
    (bytelen (wordlen n) = n + 1 ↔ n % 11 = 3 ∨ n % 11 = 7 ∨ n % 11 = 10) ∧
    (flexible (wordlen n) = true ↔ n ≠ 0 ∧ n % 11 ∈ [0, 3, 4, 7, 8, 10]) ∧
    padBits n ≤ 10 ∧ 8 * n + padBits n = 11 * wordlen n) ∧
  (∀ w : Nat,
    (flexible w = true ↔ 1 ≤ w ∧ (w % 8 = 0 ∨ w % 8 = 3 ∨ w % 8 = 6)) ∧
    slackBits w = 3 * w % 8 ∧ 8 * bytelen w + slackBits w = 11 * w ∧
    ∃ n, wordlen n = w)

/-- R100, R101: the two pure queries, for every 24-bit argument. -/
def Obligations.LengthQueries : Prop :=
  ∀ (s : State) (n : BitVec 24), fatal s = false →
    (∃ v : Reg, v.toNat = (8 * n.toNat + 10) / 11 ∧ exec (.wlen n) s = .next (answered s v none)) ∧
    (∃ v : Reg, v.toNat % 2 ^ 31 = 11 * n.toNat / 8 ∧
      (2 ^ 31 ≤ v.toNat ↔ 1 ≤ n.toNat ∧ n.toNat % 8 ∈ [0, 3, 6]) ∧
      exec (.blen n) s = .next (answered s v none))

/-- R102: `DROP1` drops the leading byte whatever it is, moving every other byte one index down. -/
def Obligations.DropLeadingByte : Prop :=
  ∀ s : State, fatal s = false →
    (∀ (b : Byte) (rest : List Byte), s.buf = b :: rest →
      exec .drop1 s = .next (answered { s with buf := rest } (BitVec.ofNat 32 rest.length) none)) ∧
    (s.buf = [] → exec .drop1 s = .next (failed s 6 0x32000000 0 []))

/-! The radix converter -/

/-- R103, R104, R107: what the four functions are, index by index, for all arguments. -/
def Obligations.PositionalFunctionsByIndex : Prop :=
  (∀ b : List Byte, be b < 256 ^ b.length ∧
    be b = ((List.range b.length).map fun i => ((b[i]?).getD 0).toNat * 256 ^ (b.length - 1 - i)).sum) ∧
  (∀ V L : Nat, (bytesBe V L).length = L ∧
    (∀ i, i < L → (bytesBe V L)[i]? = some (BitVec.ofNat 8 (V / 256 ^ (L - 1 - i)))) ∧
    (V < 256 ^ L → be (bytesBe V L) = V)) ∧
  (∀ V w : Nat, (toDigits V w).length = w ∧
    ∀ i, i < w → (toDigits V w)[i]? = some (BitVec.ofNat 11 (V / 2048 ^ i % 2048))) ∧
  (∀ d : List Digit, fromDigits d < 2048 ^ d.length ∧
    fromDigits d = ((List.range d.length).map fun i => ((d[i]?).getD 0).toNat * 2048 ^ i).sum)

/-- R106: the converter as pure bit regrouping equals the converter as arithmetic, in both directions, and the fit test:
every bit from 8L on is 0, which for the candidate length is a bound on the last digit. -/
def Obligations.RegroupingEqualsArithmetic : Prop :=
  (∀ (b : List Byte) (w : Nat), regroupToDigits b w = toDigits (be b) w) ∧
  (∀ (d : List Digit) (L : Nat), (regroupFits d L = true ↔ fromDigits d < 256 ^ L) ∧
    regroupToBytes d L = bytesBe (fromDigits d) L) ∧
  (∀ (d : List Digit) (z : Digit),
    fromDigits (d ++ [z]) < 256 ^ bytelen (d.length + 1) ↔ z.toNat < 2 ^ (11 - slackBits (d.length + 1)))

/-- R108(a) to (e): the laws that tie the two directions together, leading zero bytes included; by (b) and (c) the digits of
a buffer never fail the value check of `D2B`. -/
def Obligations.ConverterRoundTrips : Prop :=
  (∀ b : List Byte,
    be b < 256 ^ b.length ∧ 256 ^ b.length ≤ 2048 ^ wordlen b.length ∧ be b / 2048 ^ wordlen b.length = 0 ∧
    fromDigits (toDigits (be b) (wordlen b.length)) = be b ∧
    256 ^ b.length ≤ 256 ^ bytelen (wordlen b.length) ∧
    fromDigits (toDigits (be b) (wordlen b.length)) < 256 ^ bytelen (wordlen b.length) ∧
    bytesBe (be b) (bytelen (wordlen b.length)) = zeros (bytelen (wordlen b.length) - b.length) ++ b) ∧
  (∀ (d : List Digit) (L : Nat), fromDigits d < 256 ^ L →
    toDigits (be (bytesBe (fromDigits d) L)) d.length = d)

/-- R109: `B2D` writes wordlen(LEN) digits of the buffer's value, or fails when they do not fit. -/
def Obligations.BytesToDigitsCommand : Prop :=
  ∀ s : State, fatal s = false →
    (wordlen s.buf.length ≤ s.digCap →
      exec .b2d s = .next (answered { s with dig := toDigits (be s.buf) (wordlen s.buf.length) }
        (BitVec.ofNat 32 (wordlen s.buf.length)) none)) ∧
    (s.digCap < wordlen s.buf.length →
      exec .b2d s = .next (failed s 9 0x40000000 (BitVec.ofNat 32 (wordlen s.buf.length)) []))

/-- R110: `D2B` writes exactly bytelen(CNT) bytes and FLEX, or fails, first for the size and then for the value. -/
def Obligations.DigitsToBytesCommand : Prop :=
  ∀ s : State, fatal s = false →
    (bytelen s.dig.length ≤ s.bufCap → fromDigits s.dig < 256 ^ bytelen s.dig.length →
      exec .d2b s = .next (answered
        (setFlex (flexible s.dig.length) { s with buf := bytesBe (fromDigits s.dig) (bytelen s.dig.length) })
        (BitVec.ofNat 32 (bytelen s.dig.length)) none)) ∧
    (s.bufCap < bytelen s.dig.length →
      exec .d2b s = .next (failed s 9 0x41000000 (BitVec.ofNat 32 (bytelen s.dig.length)) [])) ∧
    (bytelen s.dig.length ≤ s.bufCap → 256 ^ bytelen s.dig.length ≤ fromDigits s.dig →
      exec .d2b s = .next (failed s 10 0x41000000 (BitVec.ofNat 32 (bytelen s.dig.length)) []))

/-! The codec -/

/-- R116 to R120: K is at least 1, at reset and in every state with the invariant, and the laws P1 to P4 and the second
half of P5 hold of every provider that the model can write down, whatever its width. -/
def Obligations.ProviderLaws : Prop :=
  1 ≤ Config.k ∧ State.reset.csw = Config.k ∧ (∀ s : State, Inv s → 1 ≤ s.csw) ∧
  ∀ (k : Nat) (pv : Provider k),
    (∀ b, (append pv b).length = b.length + k) ∧
    (∀ b, (append pv b).take b.length = b) ∧
    (∀ c p, verifyStrip pv c = .ok p → k ≤ c.length ∧ p = c.take (c.length - k)) ∧
    (∀ b, verifyStrip pv (append pv b) = .ok b) ∧
    (∀ c, c.length < k → ∃ e, verifyStrip pv c = .error e)

/-- The providers of the model are all the law-abiding ones: any pair of functions that obeys R116 to R119 is the
`append` and `verifyStrip` of one of them. The representation is the model's own (log entry 5). -/
def Obligations.EveryLawfulProviderIsModelled : Prop :=
  ∀ (k : Nat) (app : List Byte → List Byte) (ver : List Byte → Except (BitVec 32) (List Byte)),
    (∀ b, (app b).length = b.length + k) → (∀ b, (app b).take b.length = b) →
    (∀ c p, ver c = .ok p → k ≤ c.length ∧ p = c.take (c.length - k)) → (∀ b, ver (app b) = .ok b) →
      ∃ pv : Provider k, (∀ b, append pv b = app b) ∧ (∀ c, verifyStrip pv c = ver c)

/-- R121: `CSAPP` appends the attached provider's code, or fails when it does not fit. -/
def Obligations.AppendChecksumCommand : Prop :=
  ∀ s : State, fatal s = false →
    (s.buf.length + s.csw ≤ s.bufCap →
      exec .csapp s = .next (answered { s with buf := append (Config.provider s.csw) s.buf }
        (BitVec.ofNat 32 (s.buf.length + s.csw)) none)) ∧
    (s.bufCap < s.buf.length + s.csw →
      exec .csapp s = .next (failed s 9 0x50000000 (BitVec.ofNat 32 (s.buf.length + s.csw)) []))

/-- R122: `CSVER` strips a buffer the attached provider accepts and fails with its error on any other; what `append` gave
is accepted, and a buffer shorter than the code is not. -/
def Obligations.VerifyChecksumCommand : Prop :=
  ∀ s : State, fatal s = false →
    (∀ p, verifyStrip (Config.provider s.csw) s.buf = .ok p →
      exec .csver s = .next (answered { s with buf := p } (BitVec.ofNat 32 p.length) none)) ∧
    (∀ e, verifyStrip (Config.provider s.csw) s.buf = .error e → exec .csver s = .next (failed s 4 e 1 [])) ∧
    (∀ b, s.buf = append (Config.provider s.csw) b →
      exec .csver s = .next (answered { s with buf := b } (BitVec.ofNat 32 b.length) none)) ∧
    (s.buf.length < s.csw → ∃ e, exec .csver s = .next (failed s 4 e 1 []))

/-- R123: `ENCODE`, for the bytes first and then for the digits; its effect is that of `CSAPP` and then `B2D`. -/
def Obligations.EncodeCommand : Prop :=
  ∀ s : State, fatal s = false → ready s = true →
    (s.buf.length + s.csw ≤ s.bufCap → wordlen (s.buf.length + s.csw) ≤ s.digCap →
      exec .encode s = .next (answered
        { s with buf := append (Config.provider s.csw) s.buf,
                 dig := encodeDigits (Config.provider s.csw) s.buf }
        (BitVec.ofNat 32 (wordlen (s.buf.length + s.csw))) none)) ∧
    (s.bufCap < s.buf.length + s.csw →
      exec .encode s = .next (failed s 9 0x52000000 (BitVec.ofNat 32 (s.buf.length + s.csw)) [])) ∧
    (s.buf.length + s.csw ≤ s.bufCap → s.digCap < wordlen (s.buf.length + s.csw) →
      exec .encode s = .next (failed s 9 0x52000000 (BitVec.ofNat 32 (wordlen (s.buf.length + s.csw))) []))

/-- R123: when it succeeds, `ENCODE` leaves the block in the state of `CSAPP` followed by `B2D`. -/
def Obligations.EncodeIsAppendThenConvert : Prop :=
  ∀ s t u v : State, fatal s = false → ready s = true →
    s.buf.length + s.csw ≤ s.bufCap → wordlen (s.buf.length + s.csw) ≤ s.digCap →
    exec .encode s = .next t → exec .csapp s = .next u → exec .b2d u = .next v → SameBlock t v

/-- R124: `DECODE` on any digits: the size, the value, the first hypothesis, and the second only when the first failed and
the digit count is flexible. -/
def Obligations.DecodeCommand : Prop :=
  ∀ s : State, fatal s = false → ready s = true →
    (s.bufCap < bytelen s.dig.length →
      exec .decode s = .next (failed s 9 0x53000000 (BitVec.ofNat 32 (bytelen s.dig.length)) [])) ∧
    (bytelen s.dig.length ≤ s.bufCap → 256 ^ bytelen s.dig.length ≤ fromDigits s.dig →
      exec .decode s = .next (failed s 4 0 0 [])) ∧
    (bytelen s.dig.length ≤ s.bufCap → fromDigits s.dig < 256 ^ bytelen s.dig.length →
      exec .decode s = .next
        (match verifyStrip (Config.provider s.csw) (bytesBe (fromDigits s.dig) (bytelen s.dig.length)) with
         | .ok p =>
           answered (setRetried false (setFlex (flexible s.dig.length) { s with buf := p }))
             (BitVec.ofNat 32 p.length) none
         | .error e1 =>
           if flexible s.dig.length = false then failed s 4 e1 1 []
           else
             match verifyStrip (Config.provider s.csw)
                 ((bytesBe (fromDigits s.dig) (bytelen s.dig.length)).drop 1) with
             | .ok p =>
               answered (setRetried true (setFlex true { s with buf := p })) (BitVec.ofNat 32 p.length) none
             | .error e2 => failed s 4 e2 2 []))

/-- R125: the round trip in its exact form, for every provider and every payload; where the candidate is a byte longer it
holds exactly under the premise NoZeroPrefixCollision, and else a zero byte is gained. With any valid bank the words of
the message carry exactly its digits there and back. -/
def Obligations.RoundTripInItsExactForm : Prop :=
  ∀ (k : Nat) (pv : Provider k) (b : List Byte),
    ((b.length + k) % 11 ∉ [3, 7, 10] → decodeDigits pv (encodeDigits pv b) = .ok (b, false)) ∧
    ((b.length + k) % 11 ∈ [3, 7, 10] →
      (NoZeroPrefixCollision pv b → decodeDigits pv (encodeDigits pv b) = .ok (b, true)) ∧
      (¬NoZeroPrefixCollision pv b → decodeDigits pv (encodeDigits pv b) = .ok (0 :: b, false))) ∧
    (∀ (bank : List Word) (p : List Byte) (again : Bool), bank.length = 2048 → bank.Nodup →
      decodeDigits pv (encodeDigits pv b) = .ok (p, again) →
        ∃ ws, encodeMessage pv bank b = some ws ∧ decodeMessage pv (indexOf bank) ws = .ok p)

/-- R113, R114, R126: the first unknown word fails a message whatever the rest is; the empty message fails after one
verification; a set slack bit of the last digit fails it with no verification. -/
def Obligations.MessagesThatMustFail : Prop :=
  ∀ (k : Nat) (pv : Provider k) (idx : List (Word × Digit)), 1 ≤ k →
    (∀ (known rest : List Word) (x : Word), (∀ y ∈ known, lookup idx y ≠ none) → lookup idx x = none →
      decodeMessage pv idx (known ++ x :: rest) = .error (.unrecognizedWord x known.length)) ∧
    (∃ e, decodeMessage pv idx [] = .error (.checksumMismatch ⟨1, some e⟩)) ∧
    (∀ (d : List Digit) (z : Digit), 2 ^ (11 - slackBits (d.length + 1)) ≤ z.toNat →
      decodeDigits pv (d ++ [z]) = .error ⟨0, none⟩)

/-! The source's operations as command sequences -/

/-- R127: on a constructed codec the host procedure returns encode(p) of R112, when the payload and its encoding fit. -/
def Obligations.HostEncodeReturnsTheMessage : Prop :=
  ∀ (s : State) (p : List Byte), Inv s → fatal s = false → ready s = true →
    p.length + s.csw ≤ s.bufCap → wordlen (p.length + s.csw) ≤ s.digCap →
      ∃ t ws, hostEncode p s = some (t, .ok ws) ∧ encodeMessage (Config.provider s.csw) s.bank p = some ws

/-- R128: on a constructed codec that can hold the message, the host procedure returns decode(ws) of R113, its errors
mapped to the source's two. -/
def Obligations.HostDecodeReturnsThePayload : Prop :=
  ∀ (s : State) (ws : List Word), Inv s → fatal s = false → ready s = true →
    ws.length ≤ s.digCap → bytelen ws.length ≤ s.bufCap →
      ∃ t, hostDecode ws s = some (t,
        match decodeMessage (Config.provider s.csw) s.idx ws with
        | .ok p => .ok p
        | .error (.unrecognizedWord x _) => .error (.unrecognizedWord x)
        | .error (.checksumMismatch m) => .error (.checksumMismatch (m.cause.getD 0)))

/-- R155: from any state of the block with the invariant and FATAL = 0, the construction procedure succeeds on every
valid bank of words the block can hold and leaves a constructed codec of exactly that bank. -/
def Obligations.HostConstructionBuildsTheCodec : Prop :=
  ∀ (s : State) (B : List Word), Inv s → fatal s = false →
    B.length = 2048 → B.Nodup → (∀ x ∈ B, x.length ≤ s.wmax) →
      ∃ t, hostConstruct B s = some (t, .ok ()) ∧ t.bank = B ∧ lifecycle t = .ready ∧ Inv t

/-- R151, R145: what a host that runs an operation on a block in lifecycle state FATAL reports, with the block unchanged. Code
11 is the invariant violation to encode alone; R151 does not give it to the other two operations. -/
def Obligations.HostReportsOfAFatalBlock : Prop :=
  ∀ s : State, fatal s = true →
    (∀ B : List Word,
      hostConstruct B s = some (s, .error (.brokenInterface ⟨11, 0x02000000, none⟩))) ∧
    (∀ p : List Byte, hostEncode p s = some (s, .error .invariantViolation)) ∧
    (∀ ws : List Word,
      hostDecode ws s = some (s, .error (.brokenInterface ⟨11, 0x24000000, none⟩)))
end

