-- ==== Sys2Proof/Laws/Bank.lean ====
section
/-! SUPPORT. The search for a duplicate, the index of a bank, and the lookup. -/

namespace Sys2Proof.Machine

/-- What a duplicate found means: the word stands at both indices, the later one inside `rest`. -/
theorem firstDuplicate_some {seen rest : List Word} {x : Word} {j i : Nat}
    (h : firstDuplicate seen rest = some (x, j, i)) :
    i < j ∧ j < (seen ++ rest).length ∧ (seen ++ rest)[i]? = some x ∧ (seen ++ rest)[j]? = some x := by
  induction rest generalizing seen with
  | nil => simp [firstDuplicate] at h
  | cons y rest ih =>
    rw [firstDuplicate] at h
    split at h
    · next n hn =>
      obtain ⟨rfl, rfl, rfl⟩ : y = x ∧ seen.length = j ∧ n = i := by simpa using h
      obtain ⟨hlt, hget, -⟩ := List.findIdx?_eq_some_iff_getElem.mp hn
      refine ⟨hlt, by simp, ?_, by simp⟩
      rw [List.getElem?_append_left hlt, List.getElem?_eq_getElem hlt]
      simpa using hget
    · have := ih h
      simpa using this

/-- No duplicate is found exactly when the words are distinct. -/
theorem firstDuplicate_eq_none {seen rest : List Word} (hs : seen.Nodup) :
    firstDuplicate seen rest = none ↔ (seen ++ rest).Nodup := by
  induction rest generalizing seen with
  | nil => simp [firstDuplicate, hs]
  | cons y rest ih =>
    rw [firstDuplicate]
    split
    · next n hn =>
      have hy : y ∈ seen := by
        have := List.isSome_idxOf? (l := seen) (a := y)
        simp_all
      simp only [reduceCtorEq, false_iff]
      intro hnd
      exact (List.nodup_append.mp hnd).2.2 y hy y (by simp) rfl
    · next hn =>
      have hy : y ∉ seen := by simpa using hn
      have hs' : (seen ++ [y]).Nodup := by
        rw [List.nodup_append]
        exact ⟨hs, by simp, fun a ha b hb => by simp at hb; subst hb; exact fun he => hy (he ▸ ha)⟩
      rw [ih hs']
      simp

/-- The duplicate found is the first: nothing before the later index is repeated, and the earlier index is the least. -/
theorem firstDuplicate_first {seen rest : List Word} {x : Word} {j i : Nat} (hs : seen.Nodup)
    (h : firstDuplicate seen rest = some (x, j, i)) :
    ((seen ++ rest).take j).Nodup ∧ ∀ a, a < i → (seen ++ rest)[a]? ≠ some x := by
  induction rest generalizing seen with
  | nil => simp [firstDuplicate] at h
  | cons y rest ih =>
    rw [firstDuplicate] at h
    split at h
    · next n hn =>
      obtain ⟨rfl, rfl, rfl⟩ : y = x ∧ seen.length = j ∧ n = i := by simpa using h
      obtain ⟨hlt, -, hmin⟩ := List.findIdx?_eq_some_iff_getElem.mp hn
      refine ⟨by simpa using hs, fun a ha he => ?_⟩
      rw [List.getElem?_append_left (by omega), List.getElem?_eq_getElem (by omega)] at he
      have := hmin a ha
      simp_all
    · next hn =>
      have hy : y ∉ seen := by simpa using hn
      have hs' : (seen ++ [y]).Nodup := by
        rw [List.nodup_append]
        exact ⟨hs, by simp, fun a ha b hb => by simp at hb; subst hb; exact fun he => hy (he ▸ ha)⟩
      simpa using ih hs' h

/-- A word found by `lookup` is listed with that digit. -/
theorem lookup_mem {idx : List (Word × Digit)} {x : Word} {d : Digit} (h : lookup idx x = some d) :
    (x, d) ∈ idx := by
  induction idx with
  | nil => simp [lookup] at h
  | cons e idx ih =>
    rw [lookup, List.lookup_cons] at h
    split at h
    · next he =>
      have hx : x = e.1 := by simpa using he
      have hd : e.2 = d := by simpa using h
      rw [hx, ← hd]
      exact List.mem_cons_self
    · exact List.mem_cons_of_mem _ (ih h)

/-- A key that stands once in an index is found. -/
theorem lookup_eq_some {idx : List (Word × Digit)} {x : Word} {d : Digit} (hn : (idx.map Prod.fst).Nodup)
    (h : (x, d) ∈ idx) : lookup idx x = some d := by
  induction idx with
  | nil => simp at h
  | cons e idx ih =>
    rw [List.map_cons, List.nodup_cons] at hn
    rw [lookup, List.lookup_cons]
    rcases List.mem_cons.mp h with rfl | h
    · simp
    · have hne : x ≠ e.1 := fun he => hn.1 (List.mem_map.mpr ⟨_, h, he⟩)
      rw [beq_eq_false_iff_ne.mpr hne]
      exact ih hn.2 h

theorem map_fst_indexOf (bank : List Word) : (indexOf bank).map Prod.fst = bank := by
  simp [indexOf, List.map_map, Function.comp_def]

/-- The entries of the index of a bank that a digit can address. -/
theorem mem_indexOf {bank : List Word} {x : Word} {d : Digit} (hl : bank.length ≤ 2048) :
    (x, d) ∈ indexOf bank ↔ bank[d.toNat]? = some x := by
  have hd := d.isLt
  simp only [indexOf, List.mem_map, Prod.mk.injEq, Prod.exists]
  constructor
  · rintro ⟨y, n, hmem, rfl, rfl⟩
    have hy := List.mk_mem_zipIdx_iff_getElem?.mp hmem
    have hn := (List.getElem?_eq_some_iff.mp hy).1
    rw [BitVec.toNat_ofNat, Nat.mod_eq_of_lt (by omega)]
    exact hy
  · intro h
    exact ⟨x, d.toNat, List.mk_mem_zipIdx_iff_getElem?.mpr h, rfl, by simp⟩

/-- The lookup in the index of a bank of distinct words is the bank read backwards (R73, R80). -/
theorem lookup_indexOf {bank : List Word} {x : Word} {d : Digit} (hl : bank.length ≤ 2048) (hn : bank.Nodup) :
    lookup (indexOf bank) x = some d ↔ bank[d.toNat]? = some x := by
  rw [← mem_indexOf hl]
  exact ⟨lookup_mem, lookup_eq_some (by rw [map_fst_indexOf]; exact hn)⟩

end Sys2Proof.Machine
end

