-- ==== Sys2Proof/WellFormed.lean ====
section
/-! DEFINITION. Well-formed commands: the two operand checks that need no state (R59). Every other bound on an operand
is its field width, which the type of the constructor carries (R137). -/

namespace Sys2Proof

/-- The operand of `i` is inside its static range on a block whose words are at most `wmax` bytes long (R59): a
format-W word is no longer than WMAX, and `RDREG` names one of the registers 0 to 10. -/
def Instr.wellFormed (wmax : Nat) : Instr → Bool
  | .rdreg r => decide (r.toNat ≤ 10)
  | .bankpush x => decide (x.length ≤ wmax)
  | .lookup x => decide (x.length ≤ wmax)
  | .wpush x => decide (x.length ≤ wmax)
  | .nop => true
  | .clear => true
  | .clrerr => true
  | .rderrw => true
  | .build => true
  | .bankrd _ => true
  | .bclr => true
  | .bpush _ => true
  | .brd _ => true
  | .dclr => true
  | .dpush _ => true
  | .drd _ => true
  | .wget _ => true
  | .wlen _ => true
  | .blen _ => true
  | .drop1 => true
  | .b2d => true
  | .d2b => true
  | .csapp => true
  | .csver => true
  | .encode => true
  | .decode => true

end Sys2Proof
end

