-- ==== Sys2Proof/Laws/Decode.lean ====
section
/-! SUPPORT. Headers as numbers: what `opField`, `immField` and `header` are, and what each format decoder answers. -/

namespace Sys2Proof

theorem opField_toNat (h : Reg) : (opField h).toNat = h.toNat / 2 ^ 24 := by
  have := h.isLt
  simp only [opField, BitVec.extractLsb'_toNat, Nat.shiftRight_eq_div_pow]
  omega

theorem immField_toNat (h : Reg) : (immField h).toNat = h.toNat % 2 ^ 24 := by
  simp only [immField, BitVec.extractLsb'_toNat, Nat.shiftRight_eq_div_pow]
  omega

theorem header_toNat (i : Instr) : (header i).toNat = (opcode i).toNat * 2 ^ 24 + (immediate i).toNat := by
  have h := (immediate i).isLt
  simp only [header, BitVec.toNat_append]
  rw [← Nat.shiftLeft_add_eq_or_of_lt h, Nat.shiftLeft_eq]

@[simp] theorem opField_header (i : Instr) : opField (header i) = opcode i := by
  apply BitVec.eq_of_toNat_eq
  have := (immediate i).isLt
  rw [opField_toNat, header_toNat]
  omega

@[simp] theorem immField_header (i : Instr) : immField (header i) = immediate i := by
  apply BitVec.eq_of_toNat_eq
  have := (immediate i).isLt
  rw [immField_toNat, header_toNat]
  omega

/-- A header is its two fields, so it is determined by them. -/
theorem header_ext {g h : Reg} (hop : opField g = opField h) (himm : immField g = immField h) : g = h := by
  apply BitVec.eq_of_toNat_eq
  have h1 := congrArg BitVec.toNat hop
  have h2 := congrArg BitVec.toNat himm
  rw [opField_toNat, opField_toNat] at h1
  rw [immField_toNat, immField_toNat] at h2
  omega

/-- The header written as the spec writes it: `op * 2^24 + operand` (R55). -/
theorem header_eq (i : Instr) :
    header i = (opcode i).setWidth 32 * 0x1000000 + (immediate i).setWidth 32 := by
  apply BitVec.eq_of_toNat_eq
  have h1 := (immediate i).isLt
  have h2 := (opcode i).isLt
  have h3 : (0x1000000 : Reg).toNat = 16777216 := by simp
  rw [header_toNat, BitVec.toNat_add, BitVec.toNat_mul, BitVec.toNat_setWidth, BitVec.toNat_setWidth, h3]
  clear h3
  generalize (opcode i).toNat = b at *
  generalize (immediate i).toNat = a at *
  omega

theorem decodeN_ok {p : Packet} {i j : Instr} :
    decodeN p i = .ok j ↔ immField p.hdr = 0 ∧ p.payload = [] ∧ i = j := by
  unfold decodeN
  split <;> simp_all
  split <;> simp_all

theorem decodeI_ok {k : Nat} {p : Packet} {f : BitVec k → Instr} {j : Instr} :
    decodeI k p f = .ok j ↔
      (immField p.hdr).toNat < 2 ^ k ∧ p.payload = [] ∧ f ((immField p.hdr).setWidth k) = j := by
  have hk : 0 < 2 ^ k := Nat.two_pow_pos k
  have hlt : (immField p.hdr).toNat / 2 ^ k = 0 ↔ (immField p.hdr).toNat < 2 ^ k := Nat.div_eq_zero_iff_lt hk
  unfold decodeI
  rw [← hlt]
  split <;> simp_all
  split <;> simp_all

theorem decodeW_ok {p : Packet} {f : Word → Instr} {j : Instr} :
    decodeW p f = .ok j ↔ immField p.hdr = 0 ∧ f p.payload = j := by
  unfold decodeW
  split <;> simp_all

/-- A packet of a four-byte header: the bytes are its base-256 digits, most significant first. -/
theorem wordBytes_toNat (v : Reg) :
    (wordBytes v).map BitVec.toNat =
      [v.toNat / 2 ^ 24 % 256, v.toNat / 2 ^ 16 % 256, v.toNat / 2 ^ 8 % 256, v.toNat % 256] := by
  simp [wordBytes, BitVec.extractLsb'_toNat, Nat.shiftRight_eq_div_pow]

/-! The header of every command (R66 to R124). -/

@[simp] theorem header_nop : header .nop = 0x01000000 := by decide
@[simp] theorem header_clear : header .clear = 0x02000000 := by decide
@[simp] theorem header_rdreg (r : BitVec 24) : header (.rdreg r) = 0x03000000 + r.setWidth 32 := by
  rw [header_eq]; simp [opcode, immediate]
@[simp] theorem header_clrerr : header .clrerr = 0x04000000 := by decide
@[simp] theorem header_rderrw : header .rderrw = 0x05000000 := by decide
@[simp] theorem header_bankpush (x : Word) : header (.bankpush x) = 0x10000000 := by
  rw [header_eq]; simp [opcode, immediate]
@[simp] theorem header_build : header .build = 0x11000000 := by decide
@[simp] theorem header_lookup (x : Word) : header (.lookup x) = 0x12000000 := by
  rw [header_eq]; simp [opcode, immediate]
@[simp] theorem header_bankrd (d : BitVec 11) : header (.bankrd d) = 0x13000000 + d.setWidth 32 := by
  rw [header_eq]; simp [opcode, immediate]
@[simp] theorem header_bclr : header .bclr = 0x20000000 := by decide
@[simp] theorem header_bpush (b : BitVec 8) : header (.bpush b) = 0x21000000 + b.setWidth 32 := by
  rw [header_eq]; simp [opcode, immediate]
@[simp] theorem header_brd (a : BitVec 24) : header (.brd a) = 0x22000000 + a.setWidth 32 := by
  rw [header_eq]; simp [opcode, immediate]
@[simp] theorem header_dclr : header .dclr = 0x24000000 := by decide
@[simp] theorem header_dpush (d : BitVec 11) : header (.dpush d) = 0x25000000 + d.setWidth 32 := by
  rw [header_eq]; simp [opcode, immediate]
@[simp] theorem header_drd (j : BitVec 24) : header (.drd j) = 0x26000000 + j.setWidth 32 := by
  rw [header_eq]; simp [opcode, immediate]
@[simp] theorem header_wpush (x : Word) : header (.wpush x) = 0x27000000 := by
  rw [header_eq]; simp [opcode, immediate]
@[simp] theorem header_wget (j : BitVec 24) : header (.wget j) = 0x28000000 + j.setWidth 32 := by
  rw [header_eq]; simp [opcode, immediate]
@[simp] theorem header_wlen (n : BitVec 24) : header (.wlen n) = 0x30000000 + n.setWidth 32 := by
  rw [header_eq]; simp [opcode, immediate]
@[simp] theorem header_blen (w : BitVec 24) : header (.blen w) = 0x31000000 + w.setWidth 32 := by
  rw [header_eq]; simp [opcode, immediate]
@[simp] theorem header_drop1 : header .drop1 = 0x32000000 := by decide
@[simp] theorem header_b2d : header .b2d = 0x40000000 := by decide
@[simp] theorem header_d2b : header .d2b = 0x41000000 := by decide
@[simp] theorem header_csapp : header .csapp = 0x50000000 := by decide
@[simp] theorem header_csver : header .csver = 0x51000000 := by decide
@[simp] theorem header_encode : header .encode = 0x52000000 := by decide
@[simp] theorem header_decode : header .decode = 0x53000000 := by decide

end Sys2Proof
end

