-- ==== Sys2Proof/Laws/Lengths.lean ====
section
/-! SUPPORT. The two lengths as linear bounds, in the form the capacity arguments need. -/

namespace Sys2Proof.Machine

/-- The digits cover the bytes, by less than one digit. -/
theorem wordlen_bounds (n : Nat) : 8 * n ≤ 11 * wordlen n ∧ 11 * wordlen n ≤ 8 * n + 10 := by
  unfold wordlen; omega

/-- The candidate is covered by the digits, by less than one byte. -/
theorem bytelen_bounds (w : Nat) : 8 * bytelen w ≤ 11 * w ∧ 11 * w < 8 * bytelen w + 8 := by
  unfold bytelen; omega

/-- An 8-bit power and an 11-bit power as powers of two. -/
theorem pow256_eq (n : Nat) : 256 ^ n = 2 ^ (8 * n) := by rw [Nat.pow_mul]

theorem pow2048_eq (n : Nat) : 2048 ^ n = 2 ^ (11 * n) := by rw [Nat.pow_mul]

end Sys2Proof.Machine
end

