-- ==== Sys2Proof/Laws/Flags.lean ====
section
/-! SUPPORT. STATUS as a bit vector: what the field setters do to every bit, to ERR and to the reserved bits. -/

namespace Sys2Proof.Machine

theorem getLsbD_one_shiftLeft (n m : Nat) (hn : n < 32) : (1#32 <<< n).getLsbD m = decide (m = n) := by
  rw [BitVec.getLsbD_shiftLeft, BitVec.getLsbD_one]
  by_cases h : m = n
  · subst h; simp [hn]
  · by_cases hlt : m < n
    · simp [hlt, h]
    · have hk : ¬(m - n = 0) := by omega
      simp [h, hk]

theorem getLsbD_setBit (w : Reg) (n m : Nat) (v : Bool) (hn : n < 32) :
    (setBit w n v).getLsbD m = if m = n then v else w.getLsbD m := by
  have hone := getLsbD_one_shiftLeft n m hn
  cases v
  · simp only [setBit, Bool.false_eq_true, if_false, BitVec.getLsbD_and, BitVec.getLsbD_not, hone]
    by_cases h : m = n
    · simp [h]
    · by_cases hm : m < 32
      · simp only [h, decide_false, hm, decide_true, Bool.not_false, Bool.and_true, if_false]
      · simp [h, BitVec.getLsbD_of_ge w m (by omega)]
  · simp only [setBit, if_true, BitVec.getLsbD_or, hone]
    by_cases h : m = n
    · simp [h]
    · simp only [h, decide_false, Bool.or_false, if_false]

theorem getLsbD_setErrField (w : Reg) (e : BitVec 8) (m : Nat) :
    (setErrField w e).getLsbD m = if 8 ≤ m ∧ m < 16 then e.getLsbD (m - 8) else w.getLsbD m := by
  unfold setErrField
  by_cases hm : m < 32
  · have hmask : (0xFFFF00FF#32).getLsbD m = !decide (8 ≤ m ∧ m < 16) := by
      revert m; decide
    rw [BitVec.getLsbD_or, BitVec.getLsbD_and, hmask, BitVec.getLsbD_shiftLeft, BitVec.getLsbD_setWidth]
    by_cases h : 8 ≤ m ∧ m < 16
    · have h8 : ¬(m < 8) := by omega
      have h24 : m - 8 < 32 := by omega
      simp only [h, hm, h8, h24, decide_true, decide_false, Bool.not_true, Bool.not_false, Bool.and_false,
        Bool.false_or, Bool.true_and, and_self, if_true]
    · by_cases h8 : m < 8
      · simp [h, h8]
      · have h16 : 8 ≤ m - 8 := by omega
        simp [h, BitVec.getLsbD_of_ge e _ h16]
  · have hge : 32 ≤ m := by omega
    have h : ¬(8 ≤ m ∧ m < 16) := by omega
    rw [BitVec.getLsbD_of_ge _ _ hge, if_neg h, BitVec.getLsbD_of_ge _ _ hge]

theorem getLsbD_errField (w : Reg) (m : Nat) :
    (errField w).getLsbD m = (decide (m < 8) && w.getLsbD (8 + m)) := by
  simp [errField, BitVec.getLsbD_extractLsb']

@[simp] theorem errField_setErrField (w : Reg) (e : BitVec 8) : errField (setErrField w e) = e := by
  apply BitVec.eq_of_getLsbD_eq
  intro m hm
  have h : 8 ≤ 8 + m ∧ 8 + m < 16 := by omega
  rw [getLsbD_errField, getLsbD_setErrField, if_pos h]
  simp only [hm, decide_true, Bool.true_and, Nat.add_sub_cancel_left]

theorem errField_setBit (w : Reg) (n : Nat) (v : Bool) (hn : n < 8) : errField (setBit w n v) = errField w := by
  apply BitVec.eq_of_getLsbD_eq
  intro m hm
  have h : 8 + m ≠ n := by omega
  rw [getLsbD_errField, getLsbD_errField, getLsbD_setBit w n _ v (by omega), if_neg h]

/-- The reserved bits of STATUS are all 0 (R31(f)), bit by bit. -/
theorem reserved_iff (w : Reg) :
    w &&& 0xFFFF00F0#32 = 0 ↔ ∀ m, 4 ≤ m → ¬(8 ≤ m ∧ m < 16) → w.getLsbD m = false := by
  have hmask : ∀ m < 32, (0xFFFF00F0#32).getLsbD m = (decide (4 ≤ m) && !decide (8 ≤ m ∧ m < 16)) := by decide
  constructor
  · intro h m h4 hm
    by_cases h32 : m < 32
    · have := congrArg (fun v : Reg => v.getLsbD m) h
      simpa [BitVec.getLsbD_and, hmask m h32, h4, hm] using this
    · exact BitVec.getLsbD_of_ge _ _ (by omega)
  · intro h
    apply BitVec.eq_of_getLsbD_eq
    intro m hm
    rw [BitVec.getLsbD_and, hmask m hm]
    by_cases h4 : 4 ≤ m
    · by_cases h8 : 8 ≤ m ∧ m < 16
      · simp [h8]
      · simp [h m h4 h8]
    · simp [h4]

theorem reserved_setBit (w : Reg) (n : Nat) (v : Bool) (hn : n < 4) (h : w &&& 0xFFFF00F0#32 = 0) :
    setBit w n v &&& 0xFFFF00F0#32 = 0 := by
  rw [reserved_iff] at *
  intro m h4 hm
  rw [getLsbD_setBit w n m v (by omega), if_neg (by omega)]
  exact h m h4 hm

theorem reserved_setErrField (w : Reg) (e : BitVec 8) (h : w &&& 0xFFFF00F0#32 = 0) :
    setErrField w e &&& 0xFFFF00F0#32 = 0 := by
  rw [reserved_iff] at *
  intro m h4 hm
  rw [getLsbD_setErrField, if_neg hm]
  exact h m h4 hm

/-- What `RDREG 1` reads is STATUS itself as soon as the reserved bits are 0. -/
theorem statusRead_eq (s : State) (h : s.status &&& 0xFFFF00F0#32 = 0) : statusRead s = s.status := by
  have hmask : ∀ m < 32, (0x0000FF0F#32).getLsbD m = (decide (m < 4) || decide (8 ≤ m ∧ m < 16)) := by decide
  rw [reserved_iff] at h
  apply BitVec.eq_of_getLsbD_eq
  intro m hm
  rw [statusRead, BitVec.getLsbD_and, hmask m hm]
  by_cases h4 : m < 4
  · simp [h4]
  · by_cases h8 : 8 ≤ m ∧ m < 16
    · simp [h8]
    · simp [h m (by omega) h8]

end Sys2Proof.Machine
end

