-- ==== Sys2Proof/Laws/State.lean ====
section
/-! SUPPORT. One lemma per field per update of the state, and one per flag of STATUS per update: no later proof unfolds a
record update. -/

namespace Sys2Proof.Machine

variable (s : State) (b : List Byte) (d : List Digit) (bank : List Word) (n : Reg) (m : List (Word × Digit)) (v : Bool)
  (e : BitVec 8) (info aux : Reg) (x : Word) (r : Response) (ps : List Packet)

@[simp] theorem setBuf_wmax : (setBuf b s).wmax = s.wmax := rfl
@[simp] theorem setBuf_bufCap : (setBuf b s).bufCap = s.bufCap := rfl
@[simp] theorem setBuf_digCap : (setBuf b s).digCap = s.digCap := rfl
@[simp] theorem setBuf_csw : (setBuf b s).csw = s.csw := rfl
@[simp] theorem setBuf_bank : (setBuf b s).bank = s.bank := rfl
@[simp] theorem setBuf_bcnt : (setBuf b s).bcnt = s.bcnt := rfl
@[simp] theorem setBuf_idx : (setBuf b s).idx = s.idx := rfl
@[simp] theorem setBuf_buf : (setBuf b s).buf = b := rfl
@[simp] theorem setBuf_dig : (setBuf b s).dig = s.dig := rfl
@[simp] theorem setBuf_status : (setBuf b s).status = s.status := rfl
@[simp] theorem setBuf_errinfo : (setBuf b s).errinfo = s.errinfo := rfl
@[simp] theorem setBuf_erraux : (setBuf b s).erraux = s.erraux := rfl
@[simp] theorem setBuf_errword : (setBuf b s).errword = s.errword := rfl
@[simp] theorem setBuf_program : (setBuf b s).program = s.program := rfl
@[simp] theorem setBuf_responses : (setBuf b s).responses = s.responses := rfl

@[simp] theorem setDig_wmax : (setDig d s).wmax = s.wmax := rfl
@[simp] theorem setDig_bufCap : (setDig d s).bufCap = s.bufCap := rfl
@[simp] theorem setDig_digCap : (setDig d s).digCap = s.digCap := rfl
@[simp] theorem setDig_csw : (setDig d s).csw = s.csw := rfl
@[simp] theorem setDig_bank : (setDig d s).bank = s.bank := rfl
@[simp] theorem setDig_bcnt : (setDig d s).bcnt = s.bcnt := rfl
@[simp] theorem setDig_idx : (setDig d s).idx = s.idx := rfl
@[simp] theorem setDig_buf : (setDig d s).buf = s.buf := rfl
@[simp] theorem setDig_dig : (setDig d s).dig = d := rfl
@[simp] theorem setDig_status : (setDig d s).status = s.status := rfl
@[simp] theorem setDig_errinfo : (setDig d s).errinfo = s.errinfo := rfl
@[simp] theorem setDig_erraux : (setDig d s).erraux = s.erraux := rfl
@[simp] theorem setDig_errword : (setDig d s).errword = s.errword := rfl
@[simp] theorem setDig_program : (setDig d s).program = s.program := rfl
@[simp] theorem setDig_responses : (setDig d s).responses = s.responses := rfl

@[simp] theorem setBank_wmax : (setBank bank n s).wmax = s.wmax := rfl
@[simp] theorem setBank_bufCap : (setBank bank n s).bufCap = s.bufCap := rfl
@[simp] theorem setBank_digCap : (setBank bank n s).digCap = s.digCap := rfl
@[simp] theorem setBank_csw : (setBank bank n s).csw = s.csw := rfl
@[simp] theorem setBank_bank : (setBank bank n s).bank = bank := rfl
@[simp] theorem setBank_bcnt : (setBank bank n s).bcnt = n := rfl
@[simp] theorem setBank_idx : (setBank bank n s).idx = s.idx := rfl
@[simp] theorem setBank_buf : (setBank bank n s).buf = s.buf := rfl
@[simp] theorem setBank_dig : (setBank bank n s).dig = s.dig := rfl
@[simp] theorem setBank_status : (setBank bank n s).status = s.status := rfl
@[simp] theorem setBank_errinfo : (setBank bank n s).errinfo = s.errinfo := rfl
@[simp] theorem setBank_erraux : (setBank bank n s).erraux = s.erraux := rfl
@[simp] theorem setBank_errword : (setBank bank n s).errword = s.errword := rfl
@[simp] theorem setBank_program : (setBank bank n s).program = s.program := rfl
@[simp] theorem setBank_responses : (setBank bank n s).responses = s.responses := rfl

@[simp] theorem setIdx_wmax : (setIdx m s).wmax = s.wmax := rfl
@[simp] theorem setIdx_bufCap : (setIdx m s).bufCap = s.bufCap := rfl
@[simp] theorem setIdx_digCap : (setIdx m s).digCap = s.digCap := rfl
@[simp] theorem setIdx_csw : (setIdx m s).csw = s.csw := rfl
@[simp] theorem setIdx_bank : (setIdx m s).bank = s.bank := rfl
@[simp] theorem setIdx_bcnt : (setIdx m s).bcnt = s.bcnt := rfl
@[simp] theorem setIdx_idx : (setIdx m s).idx = m := rfl
@[simp] theorem setIdx_buf : (setIdx m s).buf = s.buf := rfl
@[simp] theorem setIdx_dig : (setIdx m s).dig = s.dig := rfl
@[simp] theorem setIdx_status : (setIdx m s).status = s.status := rfl
@[simp] theorem setIdx_errinfo : (setIdx m s).errinfo = s.errinfo := rfl
@[simp] theorem setIdx_erraux : (setIdx m s).erraux = s.erraux := rfl
@[simp] theorem setIdx_errword : (setIdx m s).errword = s.errword := rfl
@[simp] theorem setIdx_program : (setIdx m s).program = s.program := rfl
@[simp] theorem setIdx_responses : (setIdx m s).responses = s.responses := rfl

@[simp] theorem setReady_wmax : (setReady v s).wmax = s.wmax := rfl
@[simp] theorem setReady_bufCap : (setReady v s).bufCap = s.bufCap := rfl
@[simp] theorem setReady_digCap : (setReady v s).digCap = s.digCap := rfl
@[simp] theorem setReady_csw : (setReady v s).csw = s.csw := rfl
@[simp] theorem setReady_bank : (setReady v s).bank = s.bank := rfl
@[simp] theorem setReady_bcnt : (setReady v s).bcnt = s.bcnt := rfl
@[simp] theorem setReady_idx : (setReady v s).idx = s.idx := rfl
@[simp] theorem setReady_buf : (setReady v s).buf = s.buf := rfl
@[simp] theorem setReady_dig : (setReady v s).dig = s.dig := rfl
@[simp] theorem setReady_status : (setReady v s).status = setBit s.status 0 v := rfl
@[simp] theorem setReady_errinfo : (setReady v s).errinfo = s.errinfo := rfl
@[simp] theorem setReady_erraux : (setReady v s).erraux = s.erraux := rfl
@[simp] theorem setReady_errword : (setReady v s).errword = s.errword := rfl
@[simp] theorem setReady_program : (setReady v s).program = s.program := rfl
@[simp] theorem setReady_responses : (setReady v s).responses = s.responses := rfl

@[simp] theorem setFatal_wmax : (setFatal v s).wmax = s.wmax := rfl
@[simp] theorem setFatal_bufCap : (setFatal v s).bufCap = s.bufCap := rfl
@[simp] theorem setFatal_digCap : (setFatal v s).digCap = s.digCap := rfl
@[simp] theorem setFatal_csw : (setFatal v s).csw = s.csw := rfl
@[simp] theorem setFatal_bank : (setFatal v s).bank = s.bank := rfl
@[simp] theorem setFatal_bcnt : (setFatal v s).bcnt = s.bcnt := rfl
@[simp] theorem setFatal_idx : (setFatal v s).idx = s.idx := rfl
@[simp] theorem setFatal_buf : (setFatal v s).buf = s.buf := rfl
@[simp] theorem setFatal_dig : (setFatal v s).dig = s.dig := rfl
@[simp] theorem setFatal_status : (setFatal v s).status = setBit s.status 1 v := rfl
@[simp] theorem setFatal_errinfo : (setFatal v s).errinfo = s.errinfo := rfl
@[simp] theorem setFatal_erraux : (setFatal v s).erraux = s.erraux := rfl
@[simp] theorem setFatal_errword : (setFatal v s).errword = s.errword := rfl
@[simp] theorem setFatal_program : (setFatal v s).program = s.program := rfl
@[simp] theorem setFatal_responses : (setFatal v s).responses = s.responses := rfl

@[simp] theorem setFlex_wmax : (setFlex v s).wmax = s.wmax := rfl
@[simp] theorem setFlex_bufCap : (setFlex v s).bufCap = s.bufCap := rfl
@[simp] theorem setFlex_digCap : (setFlex v s).digCap = s.digCap := rfl
@[simp] theorem setFlex_csw : (setFlex v s).csw = s.csw := rfl
@[simp] theorem setFlex_bank : (setFlex v s).bank = s.bank := rfl
@[simp] theorem setFlex_bcnt : (setFlex v s).bcnt = s.bcnt := rfl
@[simp] theorem setFlex_idx : (setFlex v s).idx = s.idx := rfl
@[simp] theorem setFlex_buf : (setFlex v s).buf = s.buf := rfl
@[simp] theorem setFlex_dig : (setFlex v s).dig = s.dig := rfl
@[simp] theorem setFlex_status : (setFlex v s).status = setBit s.status 2 v := rfl
@[simp] theorem setFlex_errinfo : (setFlex v s).errinfo = s.errinfo := rfl
@[simp] theorem setFlex_erraux : (setFlex v s).erraux = s.erraux := rfl
@[simp] theorem setFlex_errword : (setFlex v s).errword = s.errword := rfl
@[simp] theorem setFlex_program : (setFlex v s).program = s.program := rfl
@[simp] theorem setFlex_responses : (setFlex v s).responses = s.responses := rfl

@[simp] theorem setRetried_wmax : (setRetried v s).wmax = s.wmax := rfl
@[simp] theorem setRetried_bufCap : (setRetried v s).bufCap = s.bufCap := rfl
@[simp] theorem setRetried_digCap : (setRetried v s).digCap = s.digCap := rfl
@[simp] theorem setRetried_csw : (setRetried v s).csw = s.csw := rfl
@[simp] theorem setRetried_bank : (setRetried v s).bank = s.bank := rfl
@[simp] theorem setRetried_bcnt : (setRetried v s).bcnt = s.bcnt := rfl
@[simp] theorem setRetried_idx : (setRetried v s).idx = s.idx := rfl
@[simp] theorem setRetried_buf : (setRetried v s).buf = s.buf := rfl
@[simp] theorem setRetried_dig : (setRetried v s).dig = s.dig := rfl
@[simp] theorem setRetried_status : (setRetried v s).status = setBit s.status 3 v := rfl
@[simp] theorem setRetried_errinfo : (setRetried v s).errinfo = s.errinfo := rfl
@[simp] theorem setRetried_erraux : (setRetried v s).erraux = s.erraux := rfl
@[simp] theorem setRetried_errword : (setRetried v s).errword = s.errword := rfl
@[simp] theorem setRetried_program : (setRetried v s).program = s.program := rfl
@[simp] theorem setRetried_responses : (setRetried v s).responses = s.responses := rfl

@[simp] theorem setLatches_wmax : (setLatches e info aux x s).wmax = s.wmax := rfl
@[simp] theorem setLatches_bufCap : (setLatches e info aux x s).bufCap = s.bufCap := rfl
@[simp] theorem setLatches_digCap : (setLatches e info aux x s).digCap = s.digCap := rfl
@[simp] theorem setLatches_csw : (setLatches e info aux x s).csw = s.csw := rfl
@[simp] theorem setLatches_bank : (setLatches e info aux x s).bank = s.bank := rfl
@[simp] theorem setLatches_bcnt : (setLatches e info aux x s).bcnt = s.bcnt := rfl
@[simp] theorem setLatches_idx : (setLatches e info aux x s).idx = s.idx := rfl
@[simp] theorem setLatches_buf : (setLatches e info aux x s).buf = s.buf := rfl
@[simp] theorem setLatches_dig : (setLatches e info aux x s).dig = s.dig := rfl
@[simp] theorem setLatches_status : (setLatches e info aux x s).status = setErrField s.status e := rfl
@[simp] theorem setLatches_errinfo : (setLatches e info aux x s).errinfo = info := rfl
@[simp] theorem setLatches_erraux : (setLatches e info aux x s).erraux = aux := rfl
@[simp] theorem setLatches_errword : (setLatches e info aux x s).errword = x := rfl
@[simp] theorem setLatches_program : (setLatches e info aux x s).program = s.program := rfl
@[simp] theorem setLatches_responses : (setLatches e info aux x s).responses = s.responses := rfl

@[simp] theorem clearAll_wmax : (clearAll s).wmax = s.wmax := rfl
@[simp] theorem clearAll_bufCap : (clearAll s).bufCap = s.bufCap := rfl
@[simp] theorem clearAll_digCap : (clearAll s).digCap = s.digCap := rfl
@[simp] theorem clearAll_csw : (clearAll s).csw = s.csw := rfl
@[simp] theorem clearAll_bank : (clearAll s).bank = [] := rfl
@[simp] theorem clearAll_bcnt : (clearAll s).bcnt = 0 := rfl
@[simp] theorem clearAll_idx : (clearAll s).idx = [] := rfl
@[simp] theorem clearAll_buf : (clearAll s).buf = [] := rfl
@[simp] theorem clearAll_dig : (clearAll s).dig = [] := rfl
@[simp] theorem clearAll_status : (clearAll s).status = 0 := rfl
@[simp] theorem clearAll_errinfo : (clearAll s).errinfo = 0 := rfl
@[simp] theorem clearAll_erraux : (clearAll s).erraux = 0 := rfl
@[simp] theorem clearAll_errword : (clearAll s).errword = [] := rfl
@[simp] theorem clearAll_program : (clearAll s).program = s.program := rfl
@[simp] theorem clearAll_responses : (clearAll s).responses = s.responses := rfl

@[simp] theorem pushResponse_wmax : (pushResponse r s).wmax = s.wmax := rfl
@[simp] theorem pushResponse_bufCap : (pushResponse r s).bufCap = s.bufCap := rfl
@[simp] theorem pushResponse_digCap : (pushResponse r s).digCap = s.digCap := rfl
@[simp] theorem pushResponse_csw : (pushResponse r s).csw = s.csw := rfl
@[simp] theorem pushResponse_bank : (pushResponse r s).bank = s.bank := rfl
@[simp] theorem pushResponse_bcnt : (pushResponse r s).bcnt = s.bcnt := rfl
@[simp] theorem pushResponse_idx : (pushResponse r s).idx = s.idx := rfl
@[simp] theorem pushResponse_buf : (pushResponse r s).buf = s.buf := rfl
@[simp] theorem pushResponse_dig : (pushResponse r s).dig = s.dig := rfl
@[simp] theorem pushResponse_status : (pushResponse r s).status = s.status := rfl
@[simp] theorem pushResponse_errinfo : (pushResponse r s).errinfo = s.errinfo := rfl
@[simp] theorem pushResponse_erraux : (pushResponse r s).erraux = s.erraux := rfl
@[simp] theorem pushResponse_errword : (pushResponse r s).errword = s.errword := rfl
@[simp] theorem pushResponse_program : (pushResponse r s).program = s.program := rfl
@[simp] theorem pushResponse_responses : (pushResponse r s).responses = s.responses ++ [r] := rfl

@[simp] theorem setProgram_wmax : (setProgram ps s).wmax = s.wmax := rfl
@[simp] theorem setProgram_bufCap : (setProgram ps s).bufCap = s.bufCap := rfl
@[simp] theorem setProgram_digCap : (setProgram ps s).digCap = s.digCap := rfl
@[simp] theorem setProgram_csw : (setProgram ps s).csw = s.csw := rfl
@[simp] theorem setProgram_bank : (setProgram ps s).bank = s.bank := rfl
@[simp] theorem setProgram_bcnt : (setProgram ps s).bcnt = s.bcnt := rfl
@[simp] theorem setProgram_idx : (setProgram ps s).idx = s.idx := rfl
@[simp] theorem setProgram_buf : (setProgram ps s).buf = s.buf := rfl
@[simp] theorem setProgram_dig : (setProgram ps s).dig = s.dig := rfl
@[simp] theorem setProgram_status : (setProgram ps s).status = s.status := rfl
@[simp] theorem setProgram_errinfo : (setProgram ps s).errinfo = s.errinfo := rfl
@[simp] theorem setProgram_erraux : (setProgram ps s).erraux = s.erraux := rfl
@[simp] theorem setProgram_errword : (setProgram ps s).errword = s.errword := rfl
@[simp] theorem setProgram_program : (setProgram ps s).program = ps := rfl
@[simp] theorem setProgram_responses : (setProgram ps s).responses = s.responses := rfl

@[simp] theorem ready_setBuf : ready (setBuf b s) = ready s := rfl
@[simp] theorem fatal_setBuf : fatal (setBuf b s) = fatal s := rfl
@[simp] theorem flex_setBuf : flex (setBuf b s) = flex s := rfl
@[simp] theorem retried_setBuf : retried (setBuf b s) = retried s := rfl
@[simp] theorem err_setBuf : err (setBuf b s) = err s := rfl

@[simp] theorem ready_setDig : ready (setDig d s) = ready s := rfl
@[simp] theorem fatal_setDig : fatal (setDig d s) = fatal s := rfl
@[simp] theorem flex_setDig : flex (setDig d s) = flex s := rfl
@[simp] theorem retried_setDig : retried (setDig d s) = retried s := rfl
@[simp] theorem err_setDig : err (setDig d s) = err s := rfl

@[simp] theorem ready_setBank : ready (setBank bank n s) = ready s := rfl
@[simp] theorem fatal_setBank : fatal (setBank bank n s) = fatal s := rfl
@[simp] theorem flex_setBank : flex (setBank bank n s) = flex s := rfl
@[simp] theorem retried_setBank : retried (setBank bank n s) = retried s := rfl
@[simp] theorem err_setBank : err (setBank bank n s) = err s := rfl

@[simp] theorem ready_setIdx : ready (setIdx m s) = ready s := rfl
@[simp] theorem fatal_setIdx : fatal (setIdx m s) = fatal s := rfl
@[simp] theorem flex_setIdx : flex (setIdx m s) = flex s := rfl
@[simp] theorem retried_setIdx : retried (setIdx m s) = retried s := rfl
@[simp] theorem err_setIdx : err (setIdx m s) = err s := rfl

@[simp] theorem ready_setReady : ready (setReady v s) = v := getLsbD_setBit _ 0 0 v (by decide)
@[simp] theorem fatal_setReady : fatal (setReady v s) = fatal s := getLsbD_setBit _ 0 1 v (by decide)
@[simp] theorem flex_setReady : flex (setReady v s) = flex s := getLsbD_setBit _ 0 2 v (by decide)
@[simp] theorem retried_setReady : retried (setReady v s) = retried s := getLsbD_setBit _ 0 3 v (by decide)
@[simp] theorem err_setReady : err (setReady v s) = err s := errField_setBit _ 0 v (by decide)

@[simp] theorem ready_setFatal : ready (setFatal v s) = ready s := getLsbD_setBit _ 1 0 v (by decide)
@[simp] theorem fatal_setFatal : fatal (setFatal v s) = v := getLsbD_setBit _ 1 1 v (by decide)
@[simp] theorem flex_setFatal : flex (setFatal v s) = flex s := getLsbD_setBit _ 1 2 v (by decide)
@[simp] theorem retried_setFatal : retried (setFatal v s) = retried s := getLsbD_setBit _ 1 3 v (by decide)
@[simp] theorem err_setFatal : err (setFatal v s) = err s := errField_setBit _ 1 v (by decide)

@[simp] theorem ready_setFlex : ready (setFlex v s) = ready s := getLsbD_setBit _ 2 0 v (by decide)
@[simp] theorem fatal_setFlex : fatal (setFlex v s) = fatal s := getLsbD_setBit _ 2 1 v (by decide)
@[simp] theorem flex_setFlex : flex (setFlex v s) = v := getLsbD_setBit _ 2 2 v (by decide)
@[simp] theorem retried_setFlex : retried (setFlex v s) = retried s := getLsbD_setBit _ 2 3 v (by decide)
@[simp] theorem err_setFlex : err (setFlex v s) = err s := errField_setBit _ 2 v (by decide)

@[simp] theorem ready_setRetried : ready (setRetried v s) = ready s := getLsbD_setBit _ 3 0 v (by decide)
@[simp] theorem fatal_setRetried : fatal (setRetried v s) = fatal s := getLsbD_setBit _ 3 1 v (by decide)
@[simp] theorem flex_setRetried : flex (setRetried v s) = flex s := getLsbD_setBit _ 3 2 v (by decide)
@[simp] theorem retried_setRetried : retried (setRetried v s) = v := getLsbD_setBit _ 3 3 v (by decide)
@[simp] theorem err_setRetried : err (setRetried v s) = err s := errField_setBit _ 3 v (by decide)

@[simp] theorem ready_setLatches : ready (setLatches e info aux x s) = ready s := getLsbD_setErrField _ e 0
@[simp] theorem fatal_setLatches : fatal (setLatches e info aux x s) = fatal s := getLsbD_setErrField _ e 1
@[simp] theorem flex_setLatches : flex (setLatches e info aux x s) = flex s := getLsbD_setErrField _ e 2
@[simp] theorem retried_setLatches : retried (setLatches e info aux x s) = retried s := getLsbD_setErrField _ e 3
@[simp] theorem err_setLatches : err (setLatches e info aux x s) = e := errField_setErrField _ _

@[simp] theorem ready_clearAll : ready (clearAll s) = false := by simp [ready]
@[simp] theorem fatal_clearAll : fatal (clearAll s) = false := by simp [fatal]
@[simp] theorem flex_clearAll : flex (clearAll s) = false := by simp [flex]
@[simp] theorem retried_clearAll : retried (clearAll s) = false := by simp [retried]
@[simp] theorem err_clearAll : err (clearAll s) = 0 := show errField 0 = 0 from by decide

@[simp] theorem ready_pushResponse : ready (pushResponse r s) = ready s := rfl
@[simp] theorem fatal_pushResponse : fatal (pushResponse r s) = fatal s := rfl
@[simp] theorem flex_pushResponse : flex (pushResponse r s) = flex s := rfl
@[simp] theorem retried_pushResponse : retried (pushResponse r s) = retried s := rfl
@[simp] theorem err_pushResponse : err (pushResponse r s) = err s := rfl

@[simp] theorem ready_setProgram : ready (setProgram ps s) = ready s := rfl
@[simp] theorem fatal_setProgram : fatal (setProgram ps s) = fatal s := rfl
@[simp] theorem flex_setProgram : flex (setProgram ps s) = flex s := rfl
@[simp] theorem retried_setProgram : retried (setProgram ps s) = retried s := rfl
@[simp] theorem err_setProgram : err (setProgram ps s) = err s := rfl

end Sys2Proof.Machine
end

