-- ==== Sys2Proof/Laws/Ops.lean ====
section
/-! SUPPORT. One lemma for each shared operation that says once what it can do: storage reads and writes, taking a failure,
the prologue, running a command. -/

namespace Sys2Proof.Machine

/-! Storage (R12, R32, R81) -/

@[simp] theorem memWrite_end {α : Type} (S v : List α) : memWrite S S.length v = S ++ v := by
  have h : S.length ≤ S.length + v.length := by omega
  simp [memWrite, List.drop_eq_nil_of_le h]

@[simp] theorem memRead_tail {α : Type} (S : List α) : memRead S 1 (S.length - 1) = S.drop 1 := by
  simp [memRead]

theorem memory_wf_iff (s : State) :
    Memory.wf s = true ↔
      s.buf.length ≤ s.bufCap ∧ s.dig.length ≤ s.digCap ∧ s.bank.length = min s.bcnt.toNat 2048 := by
  simp [Memory.wf, and_assoc]

theorem reset_memory_wf : Memory.wf State.reset = true := by
  rw [memory_wf_iff]
  exact ⟨Nat.zero_le _, Nat.zero_le _, rfl⟩

/-- BUF may be replaced by any byte string that fits. -/
theorem setBuf_memory_wf {s : State} {b : List Byte} (h : Memory.wf s = true) (hb : b.length ≤ s.bufCap) :
    Memory.wf (setBuf b s) = true := by
  simp_all [memory_wf_iff]

/-- DIG may be replaced by any digit array that fits. -/
theorem setDig_memory_wf {s : State} {d : List Digit} (h : Memory.wf s = true) (hd : d.length ≤ s.digCap) :
    Memory.wf (setDig d s) = true := by
  simp_all [memory_wf_iff]

theorem satIncr_toNat (n : Reg) : (satIncr n).toNat = min (n.toNat + 1) (2 ^ 32 - 1) := by
  have hlt := n.isLt
  unfold satIncr
  split
  · next h => rw [h]; decide
  · next h =>
    have hne : n.toNat ≠ 4294967295 := fun hn => h (BitVec.eq_of_toNat_eq hn)
    rw [BitVec.toNat_add]
    simp
    omega

/-- `BANKPUSH`'s write keeps BANK the list of its min(BCNT, 2048) written slots. -/
theorem bankpush_memory_wf {s : State} (x : Word) (h : Memory.wf s = true) :
    Memory.wf (setBank (if s.bcnt.toNat < 2048 then memWrite s.bank s.bcnt.toNat [x] else s.bank)
      (satIncr s.bcnt) s) = true := by
  rw [memory_wf_iff] at *
  obtain ⟨hb, hd, hk⟩ := h
  refine ⟨hb, hd, ?_⟩
  simp only [setBank_bank, setBank_bcnt, satIncr_toNat]
  split
  · next hlt =>
    have he : s.bcnt.toNat = s.bank.length := by omega
    rw [he, memWrite_end, List.length_append, List.length_singleton]
    omega
  · omega

theorem clearAll_memory_wf (s : State) : Memory.wf (clearAll s) = true := by
  rw [memory_wf_iff]
  exact ⟨Nat.zero_le _, Nat.zero_le _, rfl⟩

/-- A slot that has been written holds its word, whatever the free value is. -/
theorem bankSlot_of_getElem? {s : State} {d : Digit} {x : Word} (h : s.bank[d.toNat]? = some x) :
    bankSlot s d = x := by
  simp [bankSlot, h]

/-! Taking a failure (R129, R131, R143, R145) -/

/-- While FATAL = 1 the latches are frozen: only the response is given. -/
theorem raise_of_fatal {s : State} (f : Failure) (h : fatal s = true) :
    raise f s = { s with responses := s.responses ++ [failResponse f] } := by
  simp [raise, h, pushResponse]

/-- While FATAL = 0 a failure other than `Fatal` writes the four latches and gives the response. -/
theorem raise_eq_failed {s : State} (f : Failure) (h : fatal s = false) (hf : failSetsFatal f = false) :
    raise f s = failed s (failCode f) (failInfo f) (failAux f) (failWord f) := by
  simp [raise, h, hf, pushResponse, setLatches, failed, failResponse]

/-- `Fatal` also sets FATAL. -/
theorem raise_eq_setFatal_failed {s : State} (f : Failure) (h : fatal s = false) (hf : failSetsFatal f = true) :
    raise f s = setFatal true (failed s (failCode f) (failInfo f) (failAux f) (failWord f)) := by
  simp [raise, h, hf, pushResponse, setLatches, failed, failResponse, setFatal]

@[simp] theorem raise_responses (f : Failure) (s : State) :
    (raise f s).responses = s.responses ++ [failResponse f] := by
  unfold raise; split <;> [rfl; (dsimp only; split <;> rfl)]

@[simp] theorem raise_program (f : Failure) (s : State) : (raise f s).program = s.program := by
  unfold raise; split <;> [rfl; (dsimp only; split <;> rfl)]

/-- A failure never writes what R143 lists. -/
theorem raise_keepsWork (f : Failure) (s : State) : KeepsWork s (raise f s) := by
  unfold raise
  split
  · constructor <;> rfl
  · dsimp only
    split <;> constructor <;> simp

theorem fatal_raise (f : Failure) (s : State) : fatal (raise f s) = (fatal s || failSetsFatal f) := by
  unfold raise
  split
  · next h => simp [h]
  · next h => dsimp only; split <;> simp_all

/-- With FATAL = 0 the latches are those of the failure's row of R131. -/
theorem raise_latches {s : State} (f : Failure) (h : fatal s = false) :
    err (raise f s) = failCode f ∧ (raise f s).errinfo = failInfo f ∧ (raise f s).erraux = failAux f ∧
      (raise f s).errword = failWord f := by
  unfold raise
  rw [if_neg (by simp [h])]
  dsimp only
  split <;> simp

theorem failCode_ne_zero (f : Failure) : failCode f ≠ 0 := by cases f <;> simp [failCode]

theorem failCode_le (f : Failure) : (failCode f).toNat ≤ 11 := by cases f <;> simp [failCode]

/-! The prologue (R59, R65, R141) -/

theorem wordBound_eq_none {wmax : Nat} {x : Word} : wordBound wmax x = none ↔ x.length ≤ wmax := by
  unfold wordBound; split <;> simp <;> omega

/-- The static checks pass exactly on the well-formed commands. -/
theorem staticBound_eq_none {wmax : Nat} {i : Instr} : staticBound wmax i = none ↔ i.wellFormed wmax = true := by
  cases i <;> simp [staticBound, Instr.wellFormed, wordBound_eq_none]

/-- When the prologue lets a command through. -/
theorem prologue_eq_none {i : Instr} {s : State} :
    prologue i s = none ↔
      (fatal s = true → needs i = .anyFatal) ∧ i.wellFormed s.wmax = true ∧
      (needs i = .readyIs1 → ready s = true) ∧ (needs i = .readyIs0 → ready s = false) := by
  unfold prologue
  split
  · next h => simp [h.1, h.2]
  · next h =>
    rw [not_and_or] at h
    have h1 : fatal s = true → needs i = .anyFatal := fun hf => by
      rcases h with h | h
      · exact absurd hf h
      · exact Decidable.not_not.mp h
    cases hb : staticBound s.wmax i with
    | some b =>
      have : i.wellFormed s.wmax ≠ true := fun hw => by simp [staticBound_eq_none.mpr hw] at hb
      simp [this]
    | none =>
      have hw := staticBound_eq_none.mp hb
      dsimp only
      split
      · next h2 => simp [h2.1, h2.2]
      · next h2 =>
        split
        · next h3 => simp [h3.1, h3.2]
        · next h3 =>
          simp only [not_and, Bool.not_eq_false, Bool.not_eq_true] at h2 h3
          exact ⟨fun _ => ⟨h1, hw, h2, h3⟩, fun _ => rfl⟩

/-- What the prologue can fail with. -/
theorem prologue_eq_some {i : Instr} {s : State} {f : Failure} (h : prologue i s = some f) :
    (f = .halted (header i) ∧ fatal s = true ∧ needs i ≠ .anyFatal) ∨
    (∃ b, f = .rangeError (header i) b ∧ staticBound s.wmax i = some b) ∨
    (f = .notReady (header i) ∧ needs i = .readyIs1 ∧ ready s = false) ∨
    (f = .sealed (header i) ∧ needs i = .readyIs0 ∧ ready s = true) := by
  unfold prologue at h
  split at h
  · next hf => exact .inl ⟨(Option.some.inj h).symm, hf⟩
  · split at h
    · next b hb => exact .inr (.inl ⟨b, (Option.some.inj h).symm, hb⟩)
    · split at h
      · next hr => exact .inr (.inr (.inl ⟨(Option.some.inj h).symm, hr⟩))
      · split at h
        · next hr => exact .inr (.inr (.inr ⟨(Option.some.inj h).symm, hr⟩))
        · exact absurd h (by simp)

/-- A prologue failure never sets FATAL. -/
theorem prologue_failSetsFatal {i : Instr} {s : State} {f : Failure} (h : prologue i s = some f) :
    failSetsFatal f = false := by
  obtain ⟨rfl, -, -⟩ | ⟨b, rfl, -⟩ | ⟨rfl, -, -⟩ | ⟨rfl, -, -⟩ := prologue_eq_some h <;> rfl

/-! Running a command (R129) -/

/-- All a command can do: fail in the prologue, fail in its own rule, or succeed. -/
theorem command_cases {i : Instr} {s t : State} {rule : Except Failure Reply} (h : command i s rule = .next t) :
    (∃ f, prologue i s = some f ∧ t = raise f s) ∨
    (∃ f, prologue i s = none ∧ rule = .error f ∧ t = raise f s) ∨
    (∃ r, prologue i s = none ∧ rule = .ok r ∧ t = pushResponse ⟨0, r.val, r.word⟩ r.st) := by
  unfold command at h
  injection h with h
  cases hp : prologue i s with
  | some f => exact .inl ⟨f, rfl, by simpa [hp] using h.symm⟩
  | none =>
    cases rule with
    | error f => exact .inr (.inl ⟨f, rfl, rfl, by simpa [hp, finish] using h.symm⟩)
    | ok r => exact .inr (.inr ⟨r, rfl, rfl, by simpa [hp, finish] using h.symm⟩)

/-- A command that its prologue stops. -/
theorem command_of_prologue {i : Instr} {s : State} {rule : Except Failure Reply} {f : Failure}
    (h : prologue i s = some f) : command i s rule = .next (raise f s) := by
  simp [command, h]

/-- A command that its prologue lets through. -/
theorem command_of_ok {i : Instr} {s : State} {rule : Except Failure Reply} (h : prologue i s = none) :
    command i s rule = .next (finish s rule) := by
  simp [command, h]

end Sys2Proof.Machine
end

