-- ==== Sys2Proof/Laws/Positional.lean ====
section
/-! SUPPORT. Lengths, recursion equations and bounds of the positional functions. -/

namespace Sys2Proof.Machine

@[simp] theorem length_bytesBe (V L : Nat) : (bytesBe V L).length = L := by
  induction L with
  | zero => rfl
  | succ L ih => simp [bytesBe, ih]

@[simp] theorem length_toDigits (V w : Nat) : (toDigits V w).length = w := by
  induction w generalizing V with
  | zero => rfl
  | succ w ih => simp [toDigits, ih]

@[simp] theorem be_nil : be [] = 0 := rfl

theorem be_append_singleton (b : List Byte) (x : Byte) : be (b ++ [x]) = be b * 256 + x.toNat := by
  simp [be, List.foldl_append]

theorem be_append (b c : List Byte) : be (b ++ c) = be b * 256 ^ c.length + be c := by
  induction c using List.reverseRecOn with
  | nil => simp
  | append_singleton c x ih =>
    rw [← List.append_assoc, be_append_singleton, ih, be_append_singleton, List.length_append, List.length_singleton,
      Nat.pow_succ]
    ring

theorem be_cons (x : Byte) (b : List Byte) : be (x :: b) = x.toNat * 256 ^ b.length + be b := by
  have := be_append [x] b
  simpa [be] using this

theorem be_lt (b : List Byte) : be b < 256 ^ b.length := by
  induction b with
  | nil => simp
  | cons x b ih =>
    have hx := x.isLt
    rw [be_cons, List.length_cons, Nat.pow_succ]
    nlinarith

@[simp] theorem fromDigits_nil : fromDigits [] = 0 := rfl

theorem fromDigits_cons (x : Digit) (d : List Digit) : fromDigits (x :: d) = fromDigits d * 2048 + x.toNat := rfl

theorem fromDigits_lt (d : List Digit) : fromDigits d < 2048 ^ d.length := by
  induction d with
  | nil => simp
  | cons x d ih =>
    have hx := x.isLt
    rw [fromDigits_cons, List.length_cons, Nat.pow_succ]
    omega

/-- Digits beyond the value's size are the only loss of `toDigits`. -/
theorem fromDigits_toDigits (V w : Nat) : fromDigits (toDigits V w) = V % 2048 ^ w := by
  induction w generalizing V with
  | zero => simp [toDigits, Nat.mod_one]
  | succ w ih =>
    rw [toDigits, fromDigits_cons, ih, Nat.pow_succ', Nat.mod_mul]
    simp
    ring

theorem toDigits_fromDigits (d : List Digit) : toDigits (fromDigits d) d.length = d := by
  induction d with
  | nil => rfl
  | cons x d ih =>
    have hx := x.isLt
    have h1 : (fromDigits d * 2048 + x.toNat) % 2048 = x.toNat := by omega
    have h2 : (fromDigits d * 2048 + x.toNat) / 2048 = fromDigits d := by omega
    rw [fromDigits_cons, List.length_cons, toDigits, h1, h2, ih]
    simp

/-- Only the low L bytes of a value reach `bytesBe`. -/
theorem be_bytesBe (V L : Nat) : be (bytesBe V L) = V % 256 ^ L := by
  induction L with
  | zero => simp [bytesBe, Nat.mod_one]
  | succ L ih =>
    rw [bytesBe, be_cons, length_bytesBe, ih, Nat.pow_succ, Nat.mod_mul]
    simp
    ring

theorem bytesBe_be (b : List Byte) : bytesBe (be b) b.length = b := by
  have key : ∀ (c : List Byte) (a : Nat), bytesBe (a * 256 ^ c.length + be c) c.length = c := by
    intro c
    induction c with
    | nil => intro a; rfl
    | cons x c ih =>
      intro a
      have hlt := be_lt c
      have hpos : 0 < 256 ^ c.length := Nat.pos_of_ne_zero (by positivity)
      have h1 : a * 256 ^ (c.length + 1) + (x.toNat * 256 ^ c.length + be c) =
          (a * 256 + x.toNat) * 256 ^ c.length + be c := by rw [Nat.pow_succ]; ring
      rw [be_cons, List.length_cons, h1, bytesBe, ih]
      congr 1
      rw [Nat.mul_comm, Nat.mul_add_div hpos, Nat.div_eq_of_lt hlt]
      apply BitVec.eq_of_toNat_eq
      have hx := x.isLt
      simp
      omega
  simpa using key b 0

end Sys2Proof.Machine
end

