-- ==== Sys2Proof/Laws/Provider.lean ====
section
/-! SUPPORT. What the provider's two requests answer. -/

namespace Sys2Proof.Machine

variable {k : Nat} (pv : Provider k)

@[simp] theorem length_append_code (b : List Byte) : (append pv b).length = b.length + k := by
  simp [append]

/-- An accepted buffer is at least K bytes long, and what is returned is the buffer without its last K bytes. -/
theorem verifyStrip_ok {c p : List Byte} (h : verifyStrip pv c = .ok p) :
    k ≤ c.length ∧ p = c.take (c.length - k) := by
  unfold verifyStrip at h
  split at h
  · exact absurd h (by simp)
  · next hk =>
    dsimp only at h
    split at h
    · exact ⟨by omega, (Except.ok.inj h).symm⟩
    · exact absurd h (by simp)

theorem verifyStrip_ok_length {c p : List Byte} (h : verifyStrip pv c = .ok p) : p.length = c.length - k := by
  rw [(verifyStrip_ok pv h).2, List.length_take]
  omega

/-- A buffer shorter than the code is rejected. -/
theorem verifyStrip_short {c : List Byte} (h : c.length < k) : verifyStrip pv c = .error (pv.error c) := by
  simp [verifyStrip, h]

end Sys2Proof.Machine
end

