-- ==== Sys2Proof/Laws/Exec.lean ====
section
/-! SUPPORT. Every command as one rule run behind the common prologue, and what a rule can do: the failures it can end in,
and, when it succeeds, which of a few updates it makes. -/

namespace Sys2Proof.Machine

/-- The own rule of a command (R66 to R124): what is left of it when the prologue has passed. -/
def ruleOf (i : Instr) (s : State) : Except Failure Reply :=
  match i with
  | .nop => nopRule s
  | .clear => clearRule s
  | .rdreg r => rdregRule r s
  | .clrerr => clrerrRule s
  | .rderrw => rderrwRule s
  | .bankpush x => bankpushRule x s
  | .build => buildRule s
  | .lookup x => lookupRule x s
  | .bankrd d => bankrdRule d s
  | .bclr => bclrRule s
  | .bpush b => bpushRule b s
  | .brd a => brdRule a s
  | .dclr => dclrRule s
  | .dpush d => dpushRule d s
  | .drd j => drdRule j s
  | .wpush x => wpushRule x s
  | .wget j => wgetRule j s
  | .wlen n => wlenRule n s
  | .blen w => blenRule w s
  | .drop1 => drop1Rule s
  | .b2d => b2dRule s
  | .d2b => d2bRule s
  | .csapp => csappRule (attached s) s
  | .csver => csverRule (attached s) s
  | .encode => encodeRule (attached s) s
  | .decode => decodeRule (attached s) s

/-- Every command is its rule behind the common prologue (R65). -/
theorem exec_eq_command (i : Instr) (s : State) : exec i s = command i s (ruleOf i s) := by cases i <;> rfl

/-- Every command answers a next state (R129, R146). -/
theorem exec_next (i : Instr) (s : State) : ∃ t, exec i s = .next t := by
  rw [exec_eq_command]; exact ⟨_, rfl⟩

/-- All a command can do. -/
theorem exec_cases {i : Instr} {s t : State} (h : exec i s = .next t) :
    (∃ f, prologue i s = some f ∧ t = raise f s) ∨
    (∃ f, prologue i s = none ∧ ruleOf i s = .error f ∧ t = raise f s) ∨
    (∃ r, prologue i s = none ∧ ruleOf i s = .ok r ∧ t = pushResponse ⟨0, r.val, r.word⟩ r.st) := by
  rw [exec_eq_command] at h
  exact command_cases h

/-- A command whose prologue passes and whose rule succeeds. -/
theorem exec_of_ok {i : Instr} {s : State} {r : Reply} (hp : prologue i s = none) (hr : ruleOf i s = .ok r) :
    exec i s = .next (pushResponse ⟨0, r.val, r.word⟩ r.st) := by
  rw [exec_eq_command, command_of_ok hp, hr]; rfl

/-- A command whose prologue passes and whose rule fails. -/
theorem exec_of_error {i : Instr} {s : State} {f : Failure} (hp : prologue i s = none)
    (hr : ruleOf i s = .error f) : exec i s = .next (raise f s) := by
  rw [exec_eq_command, command_of_ok hp, hr]; rfl

/-- A command that its prologue stops. -/
theorem exec_of_prologue {i : Instr} {s : State} {f : Failure} (hp : prologue i s = some f) :
    exec i s = .next (raise f s) := by
  rw [exec_eq_command, command_of_prologue hp]

/-- A payload that decodes is no longer than its candidate, and at least K bytes shorter. -/
theorem decodeDigits_ok_length {k : Nat} {pv : Provider k} {d : List Digit} {p : List Byte} {again : Bool}
    (h : decodeDigits pv d = .ok (p, again)) : p.length ≤ bytelen d.length ∧ p.length + k ≤ bytelen d.length := by
  unfold decodeDigits at h
  dsimp only at h
  split at h
  · exact absurd h (by simp)
  · split at h
    · next q hv =>
      have hq : q = p := (Prod.mk.inj (Except.ok.inj h)).1
      subst hq
      have hl := verifyStrip_ok_length _ hv
      have hk := (verifyStrip_ok _ hv).1
      rw [length_bytesBe] at hl hk
      omega
    · split at h
      · exact absurd h (by simp)
      · split at h
        · next q hv =>
          have hq : q = p := (Prod.mk.inj (Except.ok.inj h)).1
          subst hq
          have hl := verifyStrip_ok_length _ hv
          have hk := (verifyStrip_ok _ hv).1
          rw [List.length_drop, length_bytesBe] at hl hk
          omega
        · exact absurd h (by simp)

/-- The only rule that can set FATAL is `WGET`'s (R92, R143). -/
theorem ruleOf_failSetsFatal {i : Instr} {s : State} {f : Failure} (h : ruleOf i s = .error f)
    (hf : failSetsFatal f = true) : ∃ j, i = .wget j := by
  cases f <;> simp [failSetsFatal] at hf
  cases i <;> simp only [ruleOf, nopRule, clearRule, rdregRule, clrerrRule, rderrwRule, bankpushRule, buildRule, lookupRule,
      bankrdRule, bclrRule, bpushRule, brdRule, dclrRule, dpushRule, drdRule, wpushRule, wgetRule, wlenRule, blenRule,
      drop1Rule, b2dRule, d2bRule, csappRule, csverRule, encodeRule, decodeRule, respond, respondWord] at h <;>
    first
      | exact ⟨_, rfl⟩
      | (exfalso; repeat' split at h) <;> simp at h

/-- What a rule that succeeds has done: nothing to the state (the reads, and the queries of the aligner), or one of the
updates of its family, of a length that fits. -/
theorem ruleOf_ok {i : Instr} {s : State} {r : Reply} (h : ruleOf i s = .ok r) :
    (r.st = s ∧ ((i = .nop ∨ i = .rderrw) ∨ (∃ n, i = .rdreg n) ∨ (∃ x, i = .lookup x) ∨ (∃ d, i = .bankrd d) ∨
      (∃ a, i = .brd a) ∨ (∃ j, i = .drd j) ∨ (∃ j, i = .wget j) ∨ (∃ n, i = .wlen n) ∨ ∃ w, i = .blen w)) ∨
    (i = .clear ∧ r.st = clearAll s) ∨
    (i = .clrerr ∧ r.st = setLatches 0 0 0 [] s) ∨
    (∃ x, i = .bankpush x ∧ r.st = setBank
      (if s.bcnt.toNat < 2048 then memWrite s.bank s.bcnt.toNat [x] else s.bank) (satIncr s.bcnt) s) ∨
    (i = .build ∧ s.bcnt = 2048 ∧ firstDuplicate [] s.bank = none ∧
      r.st = setReady true (setIdx (indexOf s.bank) s)) ∨
    (∃ b, ((∃ c, i = .bpush c ∧ b = s.buf ++ [c] ∧ s.buf.length ≠ s.bufCap) ∨
        (i = .bclr ∧ b = []) ∨ (i = .drop1 ∧ b = s.buf.drop 1) ∨
        (i = .csapp ∧ b.length ≤ s.bufCap) ∨ (i = .csver ∧ b.length ≤ s.buf.length)) ∧ r.st = setBuf b s) ∨
    (∃ d, ((∃ z, i = .dpush z ∧ d = s.dig ++ [z] ∧ s.dig.length ≠ s.digCap) ∨
        (∃ x z, i = .wpush x ∧ d = s.dig ++ [z] ∧ s.dig.length ≠ s.digCap) ∨
        (i = .dclr ∧ d = []) ∨ (i = .b2d ∧ d.length ≤ s.digCap)) ∧ r.st = setDig d s) ∨
    (∃ b d, i = .encode ∧ b.length ≤ s.bufCap ∧ d.length ≤ s.digCap ∧ r.st = setDig d (setBuf b s)) ∨
    (∃ b f, i = .d2b ∧ b.length ≤ s.bufCap ∧ r.st = setFlex f (setBuf b s)) ∨
    (∃ b f a, i = .decode ∧ b.length ≤ s.bufCap ∧ r.st = setRetried a (setFlex f (setBuf b s))) := by
  cases i <;> simp only [ruleOf, nopRule, clearRule, rdregRule, clrerrRule, rderrwRule, bankpushRule, buildRule, lookupRule,
    bankrdRule, bclrRule, bpushRule, brdRule, dclrRule, dpushRule, drdRule, wpushRule, wgetRule, wlenRule, blenRule,
    drop1Rule, b2dRule, d2bRule, respond, respondWord] at h
  case encode =>
    unfold encodeRule respond at h
    split at h
    · exact absurd h (by simp)
    · split at h
      · exact absurd h (by simp)
      · cases Except.ok.inj h
        refine .inr (.inr (.inr (.inr (.inr (.inr (.inr (.inl ⟨_, _, rfl, ?_, ?_, rfl⟩)))))))
        · simp; omega
        · simp [encodeDigits]; omega
  case csapp =>
    unfold csappRule respond at h
    split at h
    · exact absurd h (by simp)
    · cases Except.ok.inj h
      refine .inr (.inr (.inr (.inr (.inr (.inl ⟨_, .inr (.inr (.inr (.inl ⟨rfl, ?_⟩))), rfl⟩)))))
      simp; omega
  case csver =>
    unfold csverRule respond at h
    split at h
    · exact absurd h (by simp)
    · next p hp =>
      cases Except.ok.inj h
      refine .inr (.inr (.inr (.inr (.inr (.inl ⟨_, .inr (.inr (.inr (.inr ⟨rfl, ?_⟩))), rfl⟩)))))
      rw [verifyStrip_ok_length _ hp]; omega
  case decode =>
    unfold decodeRule respond at h
    split at h
    · exact absurd h (by simp)
    · split at h
      · next p again hd =>
        cases Except.ok.inj h
        refine .inr (.inr (.inr (.inr (.inr (.inr (.inr (.inr (.inr ⟨_, _, _, rfl, ?_, rfl⟩))))))))
        have := (decodeDigits_ok_length hd).1
        omega
      · exact absurd h (by simp)
  case bankpush x => cases h; exact .inr (.inr (.inr (.inl ⟨x, rfl, rfl⟩)))
  case wpush x =>
    split at h
    · cases h
    · next z hz =>
      split at h
      · cases h
      · next hne =>
        cases h
        exact .inr (.inr (.inr (.inr (.inr (.inr (.inl ⟨_, .inr (.inl ⟨x, z, rfl, memWrite_end _ _, hne⟩), rfl⟩))))))
  case b2d =>
    split at h
    · cases h
    · next hle =>
      cases h
      exact .inr (.inr (.inr (.inr (.inr (.inr (.inl
        ⟨_, .inr (.inr (.inr ⟨rfl, by rw [length_toDigits]; omega⟩)), rfl⟩))))))
  case d2b =>
    split at h
    · cases h
    · next hle =>
      split at h
      · cases h
      · cases h
        exact .inr (.inr (.inr (.inr (.inr (.inr (.inr (.inr (.inl
          ⟨_, _, rfl, by rw [length_bytesBe]; omega, rfl⟩))))))))
  all_goals (repeat' split at h)
  all_goals cases h
  all_goals simp_all

end Sys2Proof.Machine
end

