-- ==== Sys2Proof/Laws/PerInstr.lean ====
section
/-! SUPPORT. Per instruction: the packet of every command matches a row of the opcode table (R64). -/

namespace Sys2Proof.Laws

/-- The command's packet matches a row of the opcode table and meets its payload condition. -/
def InTable.Statement (i : Instr) : Prop := ∃ row ∈ opcodeTable, row.matches (encode i) = true

/-- A header under a mask, field by field. -/
theorem header_and (i : Instr) (m : Imm) : header i &&& ((0xFF : BitVec 8) ++ m) = opcode i ++ (immediate i &&& m) := by
  rw [header, BitVec.and_append]
  congr 1
  exact BitVec.and_allOnes

/-- An immediate that comes from a field of `k` bits has no bit above it. -/
theorem setWidth_and {k : Nat} (v : BitVec k) (m : Imm) (hm : ∀ n, n < k → m.getLsbD n = false) :
    v.setWidth 24 &&& m = 0 := by
  apply BitVec.eq_of_getLsbD_eq
  intro n hn
  by_cases h : n < k
  · simp [hm n h]
  · simp [BitVec.getLsbD_of_ge v n (by omega)]

theorem matches_of {i : Instr} {op : BitVec 8} {m : Imm} {f : Format} (ho : opcode i = op) (hm : immediate i &&& m = 0)
    (hf : f = .w ∨ payloadOf i = []) :
    OpcodeRow.matches ⟨op ++ (0 : Imm), (0xFF : BitVec 8) ++ m, f⟩ (encode i) = true := by
  simp only [OpcodeRow.matches, encode, header_and, hm, ho]
  simp only [Bool.and_eq_true, Bool.or_eq_true, decide_eq_true_eq]
  exact ⟨trivial, hf.imp_right (decide_eq_true ·)⟩

namespace InTable

theorem nop : Statement .nop := ⟨⟨0x01000000, 0xFFFFFFFF, .n⟩, by decide, by decide⟩
theorem clear : Statement .clear := ⟨⟨0x02000000, 0xFFFFFFFF, .n⟩, by decide, by decide⟩
theorem rdreg (r : BitVec 24) : Statement (.rdreg r) :=
  ⟨⟨0x03000000, 0xFF000000, .i⟩, by decide, matches_of (op := 0x03) (m := 0) rfl (BitVec.and_zero) (.inr rfl)⟩
theorem clrerr : Statement .clrerr := ⟨⟨0x04000000, 0xFFFFFFFF, .n⟩, by decide, by decide⟩
theorem rderrw : Statement .rderrw := ⟨⟨0x05000000, 0xFFFFFFFF, .n⟩, by decide, by decide⟩
theorem bankpush (x : Word) : Statement (.bankpush x) :=
  ⟨⟨0x10000000, 0xFFFFFFFF, .w⟩, by decide, matches_of (op := 0x10) (m := 0xFFFFFF) rfl (BitVec.zero_and) (.inl rfl)⟩
theorem build : Statement .build := ⟨⟨0x11000000, 0xFFFFFFFF, .n⟩, by decide, by decide⟩
theorem lookup (x : Word) : Statement (.lookup x) :=
  ⟨⟨0x12000000, 0xFFFFFFFF, .w⟩, by decide, matches_of (op := 0x12) (m := 0xFFFFFF) rfl (BitVec.zero_and) (.inl rfl)⟩
theorem bankrd (d : Digit) : Statement (.bankrd d) :=
  ⟨⟨0x13000000, 0xFFFFF800, .i⟩, by decide,
    matches_of (op := 0x13) (m := 0xFFF800) rfl (setWidth_and d _ (by decide)) (.inr rfl)⟩
theorem bclr : Statement .bclr := ⟨⟨0x20000000, 0xFFFFFFFF, .n⟩, by decide, by decide⟩
theorem bpush (b : Byte) : Statement (.bpush b) :=
  ⟨⟨0x21000000, 0xFFFFFF00, .i⟩, by decide,
    matches_of (op := 0x21) (m := 0xFFFF00) rfl (setWidth_and b _ (by decide)) (.inr rfl)⟩
theorem brd (a : BitVec 24) : Statement (.brd a) :=
  ⟨⟨0x22000000, 0xFF000000, .i⟩, by decide, matches_of (op := 0x22) (m := 0) rfl (BitVec.and_zero) (.inr rfl)⟩
theorem dclr : Statement .dclr := ⟨⟨0x24000000, 0xFFFFFFFF, .n⟩, by decide, by decide⟩
theorem dpush (d : Digit) : Statement (.dpush d) :=
  ⟨⟨0x25000000, 0xFFFFF800, .i⟩, by decide,
    matches_of (op := 0x25) (m := 0xFFF800) rfl (setWidth_and d _ (by decide)) (.inr rfl)⟩
theorem drd (j : BitVec 24) : Statement (.drd j) :=
  ⟨⟨0x26000000, 0xFF000000, .i⟩, by decide, matches_of (op := 0x26) (m := 0) rfl (BitVec.and_zero) (.inr rfl)⟩
theorem wpush (x : Word) : Statement (.wpush x) :=
  ⟨⟨0x27000000, 0xFFFFFFFF, .w⟩, by decide, matches_of (op := 0x27) (m := 0xFFFFFF) rfl (BitVec.zero_and) (.inl rfl)⟩
theorem wget (j : BitVec 24) : Statement (.wget j) :=
  ⟨⟨0x28000000, 0xFF000000, .i⟩, by decide, matches_of (op := 0x28) (m := 0) rfl (BitVec.and_zero) (.inr rfl)⟩
theorem wlen (n : BitVec 24) : Statement (.wlen n) :=
  ⟨⟨0x30000000, 0xFF000000, .i⟩, by decide, matches_of (op := 0x30) (m := 0) rfl (BitVec.and_zero) (.inr rfl)⟩
theorem blen (w : BitVec 24) : Statement (.blen w) :=
  ⟨⟨0x31000000, 0xFF000000, .i⟩, by decide, matches_of (op := 0x31) (m := 0) rfl (BitVec.and_zero) (.inr rfl)⟩
theorem drop1 : Statement .drop1 := ⟨⟨0x32000000, 0xFFFFFFFF, .n⟩, by decide, by decide⟩
theorem b2d : Statement .b2d := ⟨⟨0x40000000, 0xFFFFFFFF, .n⟩, by decide, by decide⟩
theorem d2b : Statement .d2b := ⟨⟨0x41000000, 0xFFFFFFFF, .n⟩, by decide, by decide⟩
theorem csapp : Statement .csapp := ⟨⟨0x50000000, 0xFFFFFFFF, .n⟩, by decide, by decide⟩
theorem csver : Statement .csver := ⟨⟨0x51000000, 0xFFFFFFFF, .n⟩, by decide, by decide⟩
theorem encode : Statement .encode := ⟨⟨0x52000000, 0xFFFFFFFF, .n⟩, by decide, by decide⟩
theorem decode : Statement .decode := ⟨⟨0x53000000, 0xFFFFFFFF, .n⟩, by decide, by decide⟩

end InTable
end Sys2Proof.Laws
end

