-- ==== Sys2Proof/Machine/Assembler.lean ====
section
/-! DEFINITION. The assembler syntax (R62) and the pseudo-instructions (R63), over lists of characters. -/

namespace Sys2Proof.Machine

/-- The pseudo-instructions (R63); they have no opcode of their own. -/
inductive Pseudo where
  | bload (bs : List Byte)
  | dload (ds : List Digit)
  | wload (ws : List Word)
  | bankload (ws : List Word)
  | bdump (m : Nat)
  | wdump (m : Nat)
deriving DecidableEq, Repr

/-- The fixed expansion of a pseudo-instruction into commands (R63). -/
def expand : Pseudo → List Instr
  | .bload bs => .bclr :: bs.map .bpush
  | .dload ds => .dclr :: ds.map .dpush
  | .wload ws => .dclr :: ws.map .wpush
  | .bankload ws => .clear :: ws.map .bankpush ++ [.build]
  | .bdump m => (List.range m).map fun j => .brd (BitVec.ofNat 24 j)
  | .wdump m => (List.range m).map fun j => .wget (BitVec.ofNat 24 j)

/-- A token of a source line: a run of characters without quotes, or a quoted word. -/
inductive Token where
  | bare (cs : List Char)
  | quoted (x : Word)
deriving DecidableEq, Repr

/-- Where the scanner of a line stands; a quoted word is kept last byte first. -/
inductive LexMode where
  | between
  | bare (acc : List Char)
  | quoted (acc : Word)
  | escape (acc : Word)
  | hexHigh (acc : Word)
  | hexLow (acc : Word) (high : Nat)
  | comment
deriving DecidableEq, Repr

/-- The value of a hexadecimal digit. -/
def hexValue (c : Char) : Option Nat :=
  let n := c.toNat
  if 48 ≤ n ∧ n ≤ 57 then some (n - 48)
  else if 97 ≤ n ∧ n ≤ 102 then some (n - 87)
  else if 65 ≤ n ∧ n ≤ 70 then some (n - 55)
  else none

/-- One character of a line (R62): the double quote is 34, the semicolon 59, the backslash 92, `x` 120; a quoted character
is printable ASCII and stands for its byte. DESIGN CHOICE (log entry 14): a blank is a space or a tab, and a closing quote
ends its token, so that two quoted words may stand with no blank between them. -/
def lexChar (m : LexMode) (c : Char) : Option (LexMode × List Token) :=
  let n := c.toNat
  match m with
  | .comment => some (.comment, [])
  | .between =>
    if n = 32 ∨ n = 9 then some (.between, [])
    else if n = 59 then some (.comment, [])
    else if n = 34 then some (.quoted [], [])
    else some (.bare [c], [])
  | .bare acc =>
    if n = 32 ∨ n = 9 then some (.between, [.bare acc.reverse])
    else if n = 59 then some (.comment, [.bare acc.reverse])
    else if n = 34 then none
    else some (.bare (c :: acc), [])
  | .quoted acc =>
    if n = 34 then some (.between, [.quoted acc.reverse])
    else if n = 92 then some (.escape acc, [])
    else if 32 ≤ n ∧ n ≤ 126 then some (.quoted (BitVec.ofNat 8 n :: acc), [])
    else none
  | .escape acc =>
    if n = 34 ∨ n = 92 then some (.quoted (BitVec.ofNat 8 n :: acc), [])
    else if n = 120 then some (.hexHigh acc, [])
    else none
  | .hexHigh acc =>
    match hexValue c with
    | some h => some (.hexLow acc h, [])
    | none => none
  | .hexLow acc high =>
    match hexValue c with
    | some l => some (.quoted (BitVec.ofNat 8 (16 * high + l) :: acc), [])
    | none => none

/-- The tokens of a line; `none` for a quoted word that is not closed or holds a bad escape. -/
def tokens : LexMode → List Char → Option (List Token)
  | .between, [] => some []
  | .comment, [] => some []
  | .bare acc, [] => some [.bare acc.reverse]
  | .quoted _, [] => none
  | .escape _, [] => none
  | .hexHigh _, [] => none
  | .hexLow _ _, [] => none
  | m, c :: rest =>
    match lexChar m c with
    | none => none
    | some (m', ts) => (tokens m' rest).map (ts ++ ·)

/-- The value of a digit string in base `base`, most significant digit first, after `acc`. -/
def digitsValue (base acc : Nat) : List Char → Option Nat
  | [] => some acc
  | c :: rest =>
    match hexValue c with
    | some v => if v < base then digitsValue base (acc * base + v) rest else none
    | none => none

/-- A numeric operand: decimal, or hexadecimal with the prefix `0x` (R62). -/
def numberOf : List Char → Option Nat
  | [] => none
  | '0' :: 'x' :: c :: rest => digitsValue 16 0 (c :: rest)
  | cs => digitsValue 10 0 cs

/-- A number as an operand of `k` bits; a wider one has no encoding (R54, R56). -/
def sized (k n : Nat) : Option (BitVec k) := if n < 2 ^ k then some (BitVec.ofNat k n) else none

/-- The operand shape of a mnemonic, by its format (R53, R55). -/
inductive Shape where
  | none (i : Instr)
  | number (k : Nat) (f : BitVec k → Instr)
  | word (f : Word → Instr)

/-- The mnemonics of R55 with their operand shapes. -/
def mnemonicTable : List (List Char × Shape) :=
  [(['N', 'O', 'P'], .none .nop), (['C', 'L', 'E', 'A', 'R'], .none .clear),
   (['R', 'D', 'R', 'E', 'G'], .number 24 .rdreg), (['C', 'L', 'R', 'E', 'R', 'R'], .none .clrerr),
   (['R', 'D', 'E', 'R', 'R', 'W'], .none .rderrw),
   (['B', 'A', 'N', 'K', 'P', 'U', 'S', 'H'], .word .bankpush), (['B', 'U', 'I', 'L', 'D'], .none .build),
   (['L', 'O', 'O', 'K', 'U', 'P'], .word .lookup), (['B', 'A', 'N', 'K', 'R', 'D'], .number 11 .bankrd)] ++
  [(['B', 'C', 'L', 'R'], .none .bclr), (['B', 'P', 'U', 'S', 'H'], .number 8 .bpush),
   (['B', 'R', 'D'], .number 24 .brd), (['D', 'C', 'L', 'R'], .none .dclr),
   (['D', 'P', 'U', 'S', 'H'], .number 11 .dpush), (['D', 'R', 'D'], .number 24 .drd),
   (['W', 'P', 'U', 'S', 'H'], .word .wpush), (['W', 'G', 'E', 'T'], .number 24 .wget)] ++
  [(['W', 'L', 'E', 'N'], .number 24 .wlen), (['B', 'L', 'E', 'N'], .number 24 .blen),
   (['D', 'R', 'O', 'P', '1'], .none .drop1), (['B', '2', 'D'], .none .b2d), (['D', '2', 'B'], .none .d2b),
   (['C', 'S', 'A', 'P', 'P'], .none .csapp), (['C', 'S', 'V', 'E', 'R'], .none .csver),
   (['E', 'N', 'C', 'O', 'D', 'E'], .none .encode), (['D', 'E', 'C', 'O', 'D', 'E'], .none .decode)]

/-- The numbers of a list of bare tokens, each of `k` bits. -/
def numbers (k : Nat) : List Token → Option (List (BitVec k))
  | [] => some []
  | .bare cs :: rest =>
    match (numberOf cs).bind (sized k), numbers k rest with
    | some v, some vs => some (v :: vs)
    | _, _ => none
  | .quoted _ :: _ => none

/-- The words of a list of quoted tokens. -/
def quotedWords : List Token → Option (List Word)
  | [] => some []
  | .quoted x :: rest => (quotedWords rest).map (x :: ·)
  | .bare _ :: _ => none

/-- The pseudo-instruction that a mnemonic and its operands spell, if any (R63). DESIGN CHOICE (log entry 14): R63 gives the
form with no operand for `BLOAD` alone, and `DLOAD`, `WLOAD` and `BANKLOAD` have it here too, with no push; a dump of 0
elements is no command; the indices of a dump must be encodable. -/
def pseudoOf (name : List Char) (ops : List Token) : Option Pseudo :=
  if name = ['B', 'L', 'O', 'A', 'D'] then (numbers 8 ops).map .bload
  else if name = ['D', 'L', 'O', 'A', 'D'] then (numbers 11 ops).map .dload
  else if name = ['W', 'L', 'O', 'A', 'D'] then (quotedWords ops).map .wload
  else if name = ['B', 'A', 'N', 'K', 'L', 'O', 'A', 'D'] then (quotedWords ops).map .bankload
  else
    match ops with
    | [.bare cs] =>
      if name = ['B', 'D', 'U', 'M', 'P'] then ((numberOf cs).filter (· ≤ 2 ^ 24)).map .bdump
      else if name = ['W', 'D', 'U', 'M', 'P'] then ((numberOf cs).filter (· ≤ 2 ^ 24)).map .wdump
      else none
    | _ => none

/-- The command that a mnemonic and its operand spell: at most one operand, of the mnemonic's shape (R62). -/
def commandOf (name : List Char) (ops : List Token) : Option Instr :=
  match mnemonicTable.lookup name, ops with
  | some (.none i), [] => some i
  | some (.number k f), [.bare cs] => ((numberOf cs).bind (sized k)).map f
  | some (.word f), [.quoted x] => some (f x)
  | _, _ => none

/-- The commands of one source line: none for an empty line or a comment, one for a command, its expansion for a
pseudo-instruction; `none` for a line that is not of the syntax (R62, R63). -/
def assembleLine (line : List Char) : Option (List Instr) :=
  match tokens .between line with
  | none => none
  | some [] => some []
  | some (.quoted _ :: _) => none
  | some (.bare name :: ops) =>
    match commandOf name ops with
    | some i => some [i]
    | none => (pseudoOf name ops).map expand

/-- The two hexadecimal digits of a byte, the letters from the character `a` on. -/
def hexByte (a : Char) (b : Byte) : List Char :=
  let digit := fun n => Char.ofNat (if n < 10 then 48 + n else a.toNat + (n - 10))
  [digit (b.toNat / 16), digit (b.toNat % 16)]

/-- The encoding of a packet as a line is written: `HHHHHHHH`, then `| b0 b1 ...` when there are payload bytes (R62).
DESIGN CHOICE (log entry 14): the letters of the header are capitals and those of the payload small, as
95_test_vectors.md writes them; R62 does not say. -/
def listing (p : Packet) : List Char :=
  (wordBytes p.hdr).flatMap (hexByte 'A') ++
    (if p.payload = [] then [] else [' ', '|'] ++ p.payload.flatMap fun b => ' ' :: hexByte 'a' b)

end Sys2Proof.Machine
end

