-- ==== Sys2Proof/Tests/Slice0.lean ====
section
/-! SUPPORT. Tests, their expected results taken from the vectors of spec/95_test_vectors.md, and for every statement with
hypotheses a witness that meets them. -/

open Sys2Proof Sys2Proof.Machine

namespace Sys2Proof.Tests

set_option Elab.async false

/-! Fixtures (95_test_vectors.md, part 1) -/

/-- The reference configuration, K = 1, right after reset. -/
def ref : State := { State.reset with wmax := 16, bufCap := 1024, digCap := 745, csw := 1 }

/-- The small configuration of V-BUF-1, right after reset. -/
def small : State := { State.reset with wmax := 4, bufCap := 4, digCap := 3, csw := 1 }

/-- A lowercase hexadecimal digit in ASCII. -/
def hex (n : Nat) : Byte := BitVec.ofNat 8 (if n < 10 then 48 + n else 87 + n)

/-- Word i of the test bank TB. -/
def tbWord (i : Nat) : Word := [0x77, hex (i / 4096 % 16), hex (i / 256 % 16), hex (i / 16 % 16), hex (i % 16)]

/-- The test bank TB. -/
@[irreducible] def tb : List Word := (List.range 2048).map tbWord

/-- The reference configuration with TB pushed and no `BUILD` yet. -/
def tbPushed : State := { ref with bank := tb, bcnt := 2048 }

/-- The reference configuration with TB loaded. -/
def tbReady : State := { tbPushed with idx := indexOf tb, status := 1 }

/-- The hypothetical start state of V-FATAL-1: the index entry of word 2 is 3. -/
def tbBroken : State := { tbReady with idx := (tbWord 2, 3) :: indexOf tb, dig := [2] }

/-- The state after V-FATAL-1, as far as STATUS and the latches go. -/
def tbFatal : State :=
  { tbReady with status := 0x00000B03, errinfo := 0x28000000, erraux := 2, errword := tbWord 2 }

/-- The sum of the bytes of b. -/
def byteSum (b : List Byte) : Nat := (b.map BitVec.toNat).sum

/-- The test provider T1. -/
def t1 : Provider 1 where
  code b := #v[BitVec.ofNat 8 (byteSum b + b.length + 1)]
  alsoAccepts _ := false
  error c := if c.length < 1 then 1 else 2

/-- The test provider T4. -/
def t4 : Provider 4 where
  code b :=
    let v := byteSum b + b.length + 1
    #v[BitVec.ofNat 8 (v / 2 ^ 24), BitVec.ofNat 8 (v / 2 ^ 16), BitVec.ofNat 8 (v / 2 ^ 8), BitVec.ofNat 8 v]
  alsoAccepts _ := false
  error c := if c.length < 4 then 1 else 2

/-- The weak provider S1. -/
def s1 : Provider 1 where
  code b := #v[BitVec.ofNat 8 (byteSum b)]
  alsoAccepts _ := false
  error c := if c.length < 1 then 1 else 2

/-- The response a step gave, as numbers. -/
def answer : Result → Option (Nat × Nat × Option Word)
  | .next t => t.responses.getLast?.map fun r => (r.err.toNat, r.val.toNat, r.word)
  | .fault _ => none
  | .refused _ => none

/-- A field of the state after a step. -/
def after {α : Type} (f : State → α) : Result → Option α
  | .next t => some (f t)
  | .fault _ => none
  | .refused _ => none

/-- The code and the four latches after a step: STATUS, ERRINFO, ERRAUX, ERRWORD. -/
def latches (r : Result) : Option (Nat × Nat × Nat × Word) :=
  after (fun t => (t.status.toNat, t.errinfo.toNat, t.erraux.toNat, t.errword)) r

/-- The bytes or digits of an array, as numbers. -/
def bufNat (s : State) : List Nat := s.buf.map BitVec.toNat
def digNat (s : State) : List Nat := s.dig.map BitVec.toNat

/-! Well-formed commands (R59): one ill-formed term for each check -/

theorem test_wellFormed_refuses_register_11 : (Instr.rdreg 11).wellFormed 16 = false := by decide
theorem test_wellFormed_accepts_register_10 : (Instr.rdreg 10).wellFormed 16 = true := by decide
theorem test_wellFormed_refuses_long_bank_word : (Instr.bankpush [1, 2, 3]).wellFormed 2 = false := by decide
theorem test_wellFormed_refuses_long_lookup : (Instr.lookup [1, 2, 3]).wellFormed 2 = false := by decide
theorem test_wellFormed_refuses_long_word : (Instr.wpush [1, 2, 3]).wellFormed 2 = false := by decide
theorem test_wellFormed_accepts_full_word : (Instr.wpush [1, 2]).wellFormed 2 = true := by decide

/-! Decoding: every constructor by a packet written out from R55 and the vectors -/

theorem test_decode_system :
    decode ⟨0x01000000, []⟩ = .ok .nop ∧ decode ⟨0x02000000, []⟩ = .ok .clear ∧
    decode ⟨0x0300000B, []⟩ = .ok (.rdreg 11) ∧ decode ⟨0x04000000, []⟩ = .ok .clrerr ∧
    decode ⟨0x05000000, []⟩ = .ok .rderrw := by decide

theorem test_decode_bank :
    decode ⟨0x10000000, [0x77, 0x30, 0x30, 0x30, 0x30]⟩ = .ok (.bankpush (tbWord 0)) ∧
    decode ⟨0x11000000, []⟩ = .ok .build ∧
    decode ⟨0x12000000, [0x77, 0x30, 0x30, 0x31, 0x31]⟩ = .ok (.lookup (tbWord 17)) ∧
    decode ⟨0x130007FF, []⟩ = .ok (.bankrd 2047) := by decide

theorem test_decode_arrays :
    decode ⟨0x20000000, []⟩ = .ok .bclr ∧ decode ⟨0x210000AB, []⟩ = .ok (.bpush 0xAB) ∧
    decode ⟨0x22000010, []⟩ = .ok (.brd 16) ∧ decode ⟨0x24000000, []⟩ = .ok .dclr ∧
    decode ⟨0x2500057B, []⟩ = .ok (.dpush 1403) ∧ decode ⟨0x26000002, []⟩ = .ok (.drd 2) ∧
    decode ⟨0x27000000, [0x77, 0x30, 0x35, 0x37, 0x62]⟩ = .ok (.wpush (tbWord 0x57b)) ∧
    decode ⟨0x2800000E, []⟩ = .ok (.wget 14) := by decide

theorem test_decode_converters :
    decode ⟨0x30FFFFFF, []⟩ = .ok (.wlen 0xFFFFFF) ∧ decode ⟨0x31000003, []⟩ = .ok (.blen 3) ∧
    decode ⟨0x32000000, []⟩ = .ok .drop1 ∧ decode ⟨0x40000000, []⟩ = .ok .b2d ∧
    decode ⟨0x41000000, []⟩ = .ok .d2b := by decide

theorem test_decode_codec :
    decode ⟨0x50000000, []⟩ = .ok .csapp ∧ decode ⟨0x51000000, []⟩ = .ok .csver ∧
    decode ⟨0x52000000, []⟩ = .ok .encode ∧ decode ⟨0x53000000, []⟩ = .ok .decode := by decide

/-- V-SYS-8 to V-SYS-17, by the cause of R56. -/
theorem test_decode_illegal :
    decode ⟨0x06000000, []⟩ = .error .unassignedOpcode ∧ decode ⟨0x23000000, []⟩ = .error .unassignedOpcode ∧
    decode ⟨0xFF000000, []⟩ = .error .unassignedOpcode ∧ decode ⟨0x52000001, []⟩ = .error .reservedImm ∧
    decode ⟨0x21000100, []⟩ = .error .reservedImm ∧ decode ⟨0x25000800, []⟩ = .error .reservedImm ∧
    decode ⟨0x13000800, []⟩ = .error .reservedImm ∧ decode ⟨0x01000000, [0]⟩ = .error .strayPayload ∧
    decode ⟨0x27000001, [0x77, 0x30, 0x30, 0x30, 0x30]⟩ = .error .reservedImm := by decide

/-- The table numbers the header's bits 0 to 31; the bits from 32 on are payload bytes. -/
theorem test_decodeTableWord :
    decodeTableWord 32 0x210000AB = some (.bpush 0xAB) ∧ decodeTableWord 32 0x27000000 = some (.wpush []) ∧
    decodeTableWord 48 0x585727000000 = some (.wpush [0x57, 0x58]) ∧ decodeTableWord 32 0 = none := by decide

theorem test_decodeBytes :
    decodeBytes [0x25, 0x00, 0x05, 0x7B] = .ok (.dpush 1403) ∧
    decodeBytes [0x12, 0, 0, 0, 0x78] = .ok (.lookup [0x78]) ∧
    decodeBytes [0x12, 0, 0] = .error .truncatedHeader := by decide

/-- R60: the response (3, 1) of V-BUF-12, and one with a word, on a byte-serial transport. -/
theorem test_responseBytes :
    responseBytes ⟨3, 1, none⟩ = [3, 0, 0, 0, 1] ∧
    responseBytes ⟨0, 0x57B, some [0x77, 0x30]⟩ = [0, 0, 0, 5, 0x7B, 0x77, 0x30] := by decide

/-! The assembler (R62, R63) -/

/-- The three examples of R62. -/
theorem test_assemble_examples :
    (assembleLine "WPUSH \"w0011\"".toList).map (·.map (listing ∘ encode)) =
      some ["27000000 | 77 30 30 31 31".toList] ∧
    (assembleLine "BPUSH 0xAB ; a comment".toList).map (·.map (listing ∘ encode)) = some ["210000AB".toList] ∧
    (assembleLine "WGET 14".toList).map (·.map (listing ∘ encode)) = some ["2800000E".toList] := by decide +kernel

/-- A packet of 95_test_vectors.md section 3 whose payload has a letter, and a header of R62 that has two. -/
theorem test_listing_letters :
    listing (encode (.bankpush [0x6C, 0x61, 0x74, 0x65])) = "10000000 | 6c 61 74 65".toList ∧
    listing (encode (.bpush 0xAB)) = "210000AB".toList := by decide +kernel

theorem test_assemble_words_and_pseudo :
    assembleLine "LOOKUP \"\\x41\\\"\\\\\"".toList = some [.lookup [0x41, 0x22, 0x5C]] ∧
    assembleLine "BANKPUSH \"\"".toList = some [.bankpush []] ∧
    assembleLine "BLOAD 0xAB 0xCD".toList = some [.bclr, .bpush 0xAB, .bpush 0xCD] ∧
    assembleLine "BANKLOAD \"a\"".toList = some [.clear, .bankpush [0x61], .build] ∧
    assembleLine "DLOAD".toList = some [.dclr] ∧ assembleLine "BANKLOAD".toList = some [.clear, .build] ∧
    assembleLine "WDUMP 2".toList = some [.wget 0, .wget 1] ∧
    assembleLine "BPUSH 256".toList = none ∧ assembleLine "BPUSH".toList = none ∧
    assembleLine "; only a comment".toList = some [] := by decide +kernel

/-! The mapping of R151 -/

/-- R151: each operation's own codes, and code 6 on a packet that R151 does not name for it. -/
theorem test_hostError_own_codes :
    hostError .construction ⟨0x10000000, [7]⟩ ⟨6, 0x10000000, none⟩ = .bankWordTooLong [7] ∧
    hostError .decode ⟨0x27000000, [7]⟩ ⟨6, 0x27000000, none⟩ = .unrecognizedWord [7] ∧
    hostError .decode ⟨0x22000009, []⟩ ⟨6, 0x22000009, none⟩ = .brokenInterface ⟨6, 0x22000009, none⟩ ∧
    hostError .encode ⟨0x52000000, []⟩ ⟨9, 0x52000000, none⟩ = .tooLarge := by decide

/-- R151: a code of another operation's row, and one of no row. -/
theorem test_hostError_other_codes :
    hostError .decode ⟨0x53000000, []⟩ ⟨11, 0x53000000, none⟩ = .brokenInterface ⟨11, 0x53000000, none⟩ ∧
    hostError .construction ⟨0x11000000, []⟩ ⟨9, 0x11000000, none⟩ = .brokenInterface ⟨9, 0x11000000, none⟩ ∧
    hostError .encode ⟨0x52000000, []⟩ ⟨7, 0x52000000, none⟩ = .brokenInterface ⟨7, 0x52000000, none⟩ := by decide

/-! System commands -/

/-- V-SYS-7. -/
theorem test_nop : answer (exec .nop ref) = some (0, 0, none) := by decide +kernel
/-- V-SYS-1. -/
theorem test_rdreg_id : answer (exec (.rdreg 0) ref) = some (0, 0x08000B08, none) := by decide +kernel
/-- V-SYS-4. -/
theorem test_rdreg_11 :
    answer (exec (.rdreg 11) ref) = some (6, 0x0300000B, none) ∧
    latches (exec (.rdreg 11) ref) = some (0x00000600, 0x0300000B, 0x0000000B, []) := by decide +kernel
/-- V-SYS-5, in the state of V-BUF-12. -/
theorem test_rderrw :
    answer (exec .rderrw { ref with errword := [0x7a, 0x65] }) = some (0, 2, some [0x7a, 0x65]) := by decide +kernel
/-- V-SYS-6: the other bits of STATUS stay. -/
theorem test_clrerr :
    latches (exec .clrerr { ref with status := 0x0000040D, errinfo := 2, erraux := 2 }) =
      some (0x0000000D, 0, 0, []) := by decide +kernel
/-- V-SYS-19. -/
theorem test_clear :
    after (fun t => (t.status, t.bcnt, t.buf, t.dig)) (exec .clear { ref with buf := [1], dig := [1], status := 1 }) =
      some (0, 0, [], []) := by decide +kernel
/-- V-SYS-16. -/
theorem test_illegal_packet :
    latches (step { ref with program := [⟨0x01000000, [0]⟩] }) = some (0x00000500, 0x01000000, 1, []) := by
  decide +kernel

/-! The bank -/

/-- V-BANK-13. -/
theorem test_bankpush :
    answer (exec (.bankpush (tbWord 0)) ref) = some (0, 1, none) ∧
    after (·.bank) (exec (.bankpush (tbWord 0)) ref) = some [tbWord 0] := by decide +kernel
/-- V-BANK-7: the 2049th word is counted and dropped. -/
theorem test_bankpush_beyond :
    answer (exec (.bankpush [0x65]) tbPushed) = some (0, 0x801, none) ∧
    after (·.bank.length) (exec (.bankpush [0x65]) tbPushed) = some 2048 := by decide +kernel
/-- V-BANK-5. -/
theorem test_build_empty :
    answer (exec .build ref) = some (1, 0, none) ∧
    latches (exec .build ref) = some (0x00000100, 0, 0x800, []) := by decide +kernel
/-- V-BANK-8, on the search itself: slots 5, 9 and 10 repeat slots 3, 1 and 3. -/
theorem test_firstDuplicate :
    firstDuplicate [] ([0, 1, 2, 3, 4, 3, 6, 7, 8, 1, 3].map tbWord) = some (tbWord 3, 5, 3) := by decide +kernel
/-- V-BANK-1 and V-BANK-3. -/
theorem test_lookup :
    answer (exec (.lookup (tbWord 17)) tbReady) = some (0, 17, none) ∧
    answer (exec (.lookup [0x57, 0x30, 0x37, 0x46, 0x46]) tbReady) = some (3, 0, none) := by decide +kernel
/-- V-BANK-15. -/
theorem test_bankrd :
    answer (exec (.bankrd 2047) tbReady) = some (0, 5, some [0x77, 0x30, 0x37, 0x66, 0x66]) := by decide +kernel

/-! The working arrays -/

theorem test_bclr : after (·.buf) (exec .bclr { ref with buf := [1, 2] }) = some [] := by decide +kernel
/-- V-BUF-1 and V-BUF-2. -/
theorem test_bpush :
    after bufNat (exec (.bpush 4) { small with buf := [1, 2, 3] }) = some [1, 2, 3, 4] ∧
    latches (exec (.bpush 5) { small with buf := [1, 2, 3, 4] }) = some (0x00000900, 0x21000005, 5, []) := by
  decide +kernel
/-- V-BUF-10, and P2. -/
theorem test_brd :
    answer (exec (.brd 0) ref) = some (6, 0x22000000, none) ∧
    answer (exec (.brd 2) { ref with buf := [0xAB, 0xCD, 0x7B] }) = some (0, 0x7B, none) := by decide +kernel
theorem test_dclr : after (·.dig) (exec .dclr { ref with dig := [1, 2] }) = some [] := by decide +kernel
/-- The example of R89, and V-BUF-5. -/
theorem test_dpush :
    answer (exec (.dpush 31) { ref with dig := [2047] }) = some (0, 2, none) ∧
    latches (exec (.dpush 1) { small with dig := [772, 64, 4] }) = some (0x00000900, 0x25000001, 4, []) := by
  decide +kernel
/-- P4, packets 6 and 7. -/
theorem test_drd :
    answer (exec (.drd 1) { ref with dig := [2047, 31] }) = some (0, 0x1F, none) ∧
    answer (exec (.drd 2) { ref with dig := [2047, 31] }) = some (6, 0x26000002, none) := by decide +kernel
/-- V-BUF-12. -/
theorem test_wpush :
    answer (exec (.wpush (tbWord 0x57b)) tbReady) = some (0, 0x57B, none) ∧
    latches (exec (.wpush [0x7a, 0x65, 0x62, 0x72, 0x61]) { tbReady with dig := [1403] }) =
      some (0x00000301, 1, 0, [0x7a, 0x65, 0x62, 0x72, 0x61]) := by decide +kernel
/-- V-BUF-14: unknown before full. -/
theorem test_wpush_full :
    answer (exec (.wpush (tbWord 1)) { tbReady with digCap := 3, dig := [0, 0, 0] }) = some (9, 0x27000000, none) ∧
    answer (exec (.wpush [0x7a]) { tbReady with digCap := 3, dig := [0, 0, 0] }) = some (3, 3, none) := by
  decide +kernel
/-- V-BUF-17. -/
theorem test_wget :
    answer (exec (.wget 0) { tbReady with dig := [2047] }) = some (0, 0x7FF, some (tbWord 2047)) ∧
    answer (exec (.wget 1) { tbReady with dig := [2047] }) = some (6, 0x28000001, none) := by decide +kernel
/-- V-FATAL-1. -/
theorem test_wget_fatal :
    answer (exec (.wget 0) tbBroken) = some (11, 0x28000000, none) ∧
    latches (exec (.wget 0) tbBroken) = some (0x00000B03, 0x28000000, 2, tbWord 2) := by decide +kernel
/-- V-FATAL-3 and V-FATAL-6. -/
theorem test_fatal_gate :
    answer (exec .clear tbFatal) = some (11, 0x02000000, none) ∧
    answer (exec (.lookup (List.replicate 17 0x78)) tbFatal) = some (11, 0x12000000, none) := by decide +kernel
/-- V-FATAL-4: the response, and the latches frozen. -/
theorem test_fatal_latches :
    answer (exec (.rdreg 11) tbFatal) = some (6, 0x0300000B, none) ∧
    latches (exec (.rdreg 11) tbFatal) = some (0x00000B03, 0x28000000, 2, tbWord 2) := by decide +kernel
/-- V-BUF-16 and V-BANK-12: the length of a word before the lifecycle state. -/
theorem test_priority_range :
    answer (exec (.wpush (List.replicate 17 0x78)) ref) = some (6, 0x27000000, none) ∧
    answer (exec (.bankpush (List.replicate 17 0x78)) tbReady) = some (6, 0x10000000, none) := by decide +kernel
/-- V-BANK-10 and V-SYS-15. -/
theorem test_priority_lifecycle :
    answer (exec (.bankpush [0x6c]) tbReady) = some (8, 0x10000000, none) ∧
    answer (step { ref with program := [⟨0x13000800, []⟩] }) = some (5, 0x13000800, none) := by decide +kernel

/-! The aligner -/

/-- V-ALIGN-1 and V-ALIGN-2. -/
theorem test_wlen :
    ([0, 1, 2, 3, 4, 11, 20].map wordlen) = [0, 1, 2, 3, 3, 8, 15] ∧
    answer (exec (.wlen 0xFFFFFF) ref) = some (0, 0x00BA2E8B, none) := by decide +kernel
/-- V-ALIGN-3 and V-ALIGN-5. -/
theorem test_blen :
    (List.range 10).map (fun w => (blenValue w).toNat) =
      [0, 1, 2, 0x80000004, 5, 6, 0x80000008, 9, 0x8000000B, 0x0C] ∧
    answer (exec (.blen 0xFFFFFF) ref) = some (0, 0x015FFFFE, none) := by decide +kernel
/-- The table of 95_test_vectors.md, part 3.4. -/
theorem test_length_table :
    (List.range 25).map (fun n => bytelen (wordlen n)) =
      [0, 1, 2, 4, 4, 5, 6, 8, 8, 9, 11, 11, 12, 13, 15, 15, 16, 17, 19, 19, 20, 22, 22, 23, 24] ∧
    (List.range 23).map padBits = [0, 3, 6, 9, 1, 4, 7, 10, 2, 5, 8, 0, 3, 6, 9, 1, 4, 7, 10, 2, 5, 8, 0] ∧
    (List.range 9).map slackBits = [0, 3, 6, 1, 4, 7, 2, 5, 0] := by decide +kernel
/-- V-ALIGN-6 and V-BUF-11. -/
theorem test_drop1 :
    after bufNat (exec .drop1 { ref with buf := [0, 0xAB, 0xCD, 0x7B] }) = some [0xAB, 0xCD, 0x7B] ∧
    answer (exec .drop1 ref) = some (6, 0x32000000, none) := by decide +kernel

/-! The radix converter -/

/-- V-RADIX-7 and V-RADIX-9. -/
theorem test_b2d :
    after digNat (exec .b2d { ref with buf := [0xAB, 0xCD, 0x7B] }) = some [1403, 1401, 2] ∧
    after digNat (exec .b2d { ref with buf := [1, 2, 3, 4, 5] }) = some [1029, 96, 1032, 0] := by decide +kernel
/-- V-RADIX-18 and V-RADIX-15. -/
theorem test_d2b :
    after bufNat (exec .d2b { ref with dig := [1775, 1463, 890] }) = some [0xDE, 0xAD, 0xBE, 0xEF] ∧
    latches (exec .d2b { ref with dig := [0, 32] }) = some (0x00000A00, 0x41000000, 2, []) := by decide +kernel
/-- V-BUF-7 and V-BUF-9. -/
theorem test_d2b_flex_and_capacity :
    after (fun t => (bufNat t, t.status)) (exec .d2b { small with status := 0x900, dig := [1, 2, 3] }) =
      some ([0, 0xC0, 0x10, 1], 0x904) ∧
    latches (exec .d2b { small with bufCap := 3, dig := [1, 2, 0] }) = some (0x00000900, 0x41000000, 4, []) := by
  decide +kernel
/-- The converter as bit regrouping, on V-RADIX-8 and V-RADIX-17. -/
theorem test_regroup :
    (regroupToDigits [0xDE, 0xAD, 0xBE, 0xEF] 3).map BitVec.toNat = [1775, 1463, 890] ∧
    (regroupToBytes [1403, 1401, 2] 4).map BitVec.toNat = [0, 0xAB, 0xCD, 0x7B] ∧
    regroupFits [2047, 2047, 2047] 4 = false ∧ regroupFits [2047, 2047, 1023] 4 = true := by decide +kernel

/-! The codec, under the test providers -/

/-- V-BUF-4, and the example of R121. -/
theorem test_csapp :
    bufNat (finish ref (csappRule t1 { ref with buf := [0xFF, 0xFF] })) = [0xFF, 0xFF, 1] ∧
    latches (exec .csapp { small with buf := [1, 2, 3, 4] }) = some (0x00000900, 0x50000000, 5, []) := by
  decide +kernel
/-- V-CODEC-13. -/
theorem test_csver :
    (verifyStrip t1 [0, 0xAB, 0xCD, 0x7B]).toOption = none ∧
    latches (.next (finish ref (csverRule t1 { ref with buf := [0, 0xAB, 0xCD, 0x7B] }))) =
      some (0x00000400, 2, 1, []) ∧
    bufNat (finish ref (csverRule t1 { ref with buf := [0xAB, 0xCD, 0x7B] })) = [0xAB, 0xCD] := by decide +kernel
/-- V-CODEC-2, and V-CODEC-8 (a). -/
theorem test_encode :
    (fun t => (bufNat t, digNat t)) (finish ref (encodeRule t1 { ref with buf := [0xAB, 0xCD] })) =
      ([0xAB, 0xCD, 0x7B], [1403, 1401, 2]) ∧
    digNat (finish ref (encodeRule t4 { ref with buf := List.replicate 16 0 })) = 17 :: List.replicate 14 0 := by
  decide +kernel
/-- V-CODEC-18 and V-CODEC-19: the bytes before the digits. -/
theorem test_encode_capacity :
    latches (exec .encode { small with status := 1, buf := [1, 2, 3, 4] }) = some (0x00000901, 0x52000000, 5, []) ∧
    latches (exec .encode { small with status := 1, bufCap := 8, buf := [1, 2, 3, 4] }) =
      some (0x00000901, 0x52000000, 4, []) := by decide +kernel
/-- V-CODEC-3 and V-CODEC-17. -/
theorem test_decode :
    (fun t => (bufNat t, t.status)) (finish ref (decodeRule t1 { ref with dig := [1403, 1401, 2], status := 1 })) =
      ([0xAB, 0xCD], 0x0000000D) ∧
    (fun t => (bufNat t, t.status)) (finish ref (decodeRule t1 { ref with dig := [778, 64, 4], status := 1 })) =
      ([1, 2, 3], 0x00000005) := by decide +kernel
/-- V-CODEC-4 to V-CODEC-6, V-CODEC-9 and V-CODEC-15. -/
theorem test_decodeDigits :
    decodeDigits t1 [1403, 1209, 2] = .error ⟨2, some 2⟩ ∧ decodeDigits t1 [2047] = .error ⟨0, none⟩ ∧
    decodeDigits t1 [] = .error ⟨1, some 1⟩ ∧ decodeDigits s1 [1400, 1401, 2] = .ok ([0, 0xAB, 0xCD], false) ∧
    decodeDigits t1 [1403, 1401, 342] = .ok ([0xAB, 0xCD], true) := by decide +kernel

/-! Witnesses: for every statement with hypotheses, concrete states and operands that meet them. A statement whose only
hypotheses are `fatal s = false` and one clause's bound has a witness on each side of the bound. -/

/-- What a step is known to leave, from one computed field. -/
theorem exec_after {α : Type} {f : State → α} {v : α} {i : Instr} {s : State} (h : after f (exec i s) = some v) :
    ∃ t, exec i s = .next t ∧ f t = v := by
  obtain ⟨t, ht⟩ := exec_next i s
  exact ⟨t, ht, by simpa [ht, after] using h⟩

/-- The number a TB word spells. -/
def untb (x : Word) : Nat :=
  x.tail.foldl (fun a b => a * 16 + (if b.toNat < 58 then b.toNat - 48 else b.toNat - 87)) 0

theorem untb_tbWord : ∀ i < 2048, untb (tbWord i) = i := by decide +kernel

theorem length_tb : tb.length = 2048 := by unfold tb; simp

theorem tb_nodup : tb.Nodup := by
  unfold tb
  refine List.Nodup.map_on (fun a ha b hb h => ?_) List.nodup_range
  rw [← untb_tbWord a (List.mem_range.mp ha), ← untb_tbWord b (List.mem_range.mp hb), h]

theorem length_of_mem_tb {x : Word} (h : x ∈ tb) : x.length = 5 := by
  unfold tb at h
  obtain ⟨i, -, rfl⟩ := List.mem_map.mp h
  rfl

/-- 2048 times the empty word. -/
@[irreducible] def same : List Word := List.replicate 2048 []

/-- The 2048 slots all hold the empty word. -/
def sameBank : State := { ref with bank := same, bcnt := 2048 }

theorem inv_ref : Inv ref where
  wmaxRange := by decide
  bufCapRange := by decide
  digCapRange := by decide
  cswRange := by decide
  memory := by decide +kernel
  whenReady := fun h => absurd h (by decide)
  whenNotReady := fun _ => rfl
  bankWords := fun _ h => absurd h List.not_mem_nil
  errWord := Nat.zero_le _
  reserved := by decide
  errCode := by decide
  fatalReady := fun h => absurd h (by decide)

theorem inv_small : Inv small :=
  { inv_ref with
    wmaxRange := by decide
    bufCapRange := by decide
    digCapRange := by decide
    cswRange := by decide
    memory := by decide +kernel
    bankWords := fun _ h => absurd h List.not_mem_nil
    errWord := Nat.zero_le _ }

theorem inv_sameBank : Inv sameBank :=
  { inv_ref with
    memory := by decide +kernel
    whenReady := fun h => absurd h (by decide)
    bankWords := fun x h => by
      unfold sameBank same at h
      rw [List.eq_of_mem_replicate h]; exact Nat.zero_le _ }

theorem inv_tbPushed : Inv tbPushed :=
  { inv_ref with
    memory := by decide +kernel
    whenReady := fun h => absurd h (by decide)
    bankWords := fun x h => by rw [length_of_mem_tb h]; decide }

theorem inv_tbReady : Inv tbReady :=
  { inv_tbPushed with
    whenReady := fun _ => ⟨rfl, tb_nodup, rfl⟩
    whenNotReady := fun h => absurd h (by decide)
    reserved := by decide
    errCode := by decide
    fatalReady := fun h => absurd h (by decide) }

/-- The invariant does not see the packet port. -/
theorem inv_setProgram {s : State} (h : Inv s) (ps : List Packet) : Inv (setProgram ps s) :=
  ⟨h.1, h.2, h.3, h.4, h.5, h.6, h.7, h.8, h.9, h.10, h.11, h.12⟩

/-- A full digit array in the reference configuration, with TB loaded. -/
def tbFull : State := { tbReady with digCap := 1, dig := [0] }

theorem inv_tbFull : Inv tbFull := { inv_tbReady with digCapRange := by decide, memory := by decide +kernel }

/-! Encoding and the step -/

theorem witness_LegalPacketIsItsCommandsPacket : decode ⟨0x130007FF, []⟩ = .ok (.bankrd 2047) := by decide

theorem witness_LegalPacketsAreTheTableRows :
    ∃ row ∈ opcodeTable, row.matches ⟨0x130007FF, []⟩ = true := by decide

/-- Both ends of every unassigned range of R57, and the opcodes beside them. -/
theorem witness_UnassignedOpcodesAreThe230Listed :
    ([0x00, 0x06, 0x0F, 0x14, 0x1F, 0x23, 0x29, 0x2F, 0x33, 0x3F, 0x42, 0x4F, 0x54, 0xFF].all fun op =>
      decide (decode ⟨BitVec.ofNat 32 (op * 2 ^ 24), []⟩ = .error .unassignedOpcode)) = true ∧
    ([0x01, 0x05, 0x10, 0x13, 0x22, 0x24, 0x28, 0x30, 0x32, 0x40, 0x41, 0x50, 0x53].all fun op =>
      decide (decode ⟨BitVec.ofNat 32 (op * 2 ^ 24), []⟩ ≠ .error .unassignedOpcode)) = true := by decide +kernel

theorem witness_StepRunsTheDecodedCommand :
    (setProgram [⟨0x01000000, []⟩] ref).program = ⟨0x01000000, []⟩ :: [] ∧ decode ⟨0x01000000, []⟩ = .ok .nop :=
  ⟨rfl, by decide⟩

theorem witness_IllegalPacketFailsInEveryState :
    (setProgram [⟨0, []⟩] ref).program = ⟨0, []⟩ :: [] ∧ decode ⟨0, []⟩ = .error .unassignedOpcode ∧
    fatal (setProgram [⟨0, []⟩] ref) = false ∧ fatal (setProgram [⟨0, []⟩] tbFatal) = true :=
  ⟨rfl, by decide, by decide, by decide⟩

theorem witness_EveryPacketIsAnsweredOnce :
    (setProgram [⟨0, []⟩] ref).program = ⟨0, []⟩ :: [] ∧ ref.program = [] := ⟨rfl, rfl⟩

/-! The invariant, and what no step changes -/

theorem witness_StepKeepsTheInvariant :
    Inv (setProgram [⟨0x02000000, []⟩] tbReady) ∧ ∃ t, step (setProgram [⟨0x02000000, []⟩] tbReady) = .next t :=
  ⟨inv_setProgram inv_tbReady _, exec_next .clear tbReady⟩

theorem witness_FatalIsNeverSet :
    Inv (setProgram [⟨0x28000000, []⟩] tbReady) ∧ fatal (setProgram [⟨0x28000000, []⟩] tbReady) = false ∧
    ∃ t, step (setProgram [⟨0x28000000, []⟩] tbReady) = .next t :=
  ⟨inv_setProgram inv_tbReady _, by decide, exec_next (.wget 0) tbReady⟩

theorem witness_ParametersNeverChange : ∃ t, step (setProgram [⟨0x02000000, []⟩] tbReady) = .next t :=
  exec_next .clear tbReady

/-! Failures -/

theorem witness_LatchesDescribeTheLastFailure :
    fatal ref = false ∧
    (∃ t, exec (.brd 0) ref = .next t ∧ t.responses = ref.responses ++ [⟨6, 0x22000000, none⟩]) ∧
    (∃ t, exec .bclr ref = .next t ∧ t.responses = ref.responses ++ [⟨0, 0, none⟩]) :=
  ⟨by decide, exec_after (by decide +kernel), exec_after (by decide +kernel)⟩

/-- An ordinary failure, and the one that sets FATAL. -/
theorem witness_FailuresArePrecise :
    (∃ t, exec (.brd 0) ref = .next t ∧ t.responses = ref.responses ++ [⟨6, 0x22000000, none⟩]) ∧
    (∃ t, exec (.wget 0) tbBroken = .next t ∧ t.responses = tbBroken.responses ++ [⟨11, 0x28000000, none⟩]) :=
  ⟨exec_after (by decide +kernel), exec_after (by decide +kernel)⟩

/-- One packet for each clause. -/
theorem witness_FatalFreezesTheBlock :
    fatal tbFatal = true ∧ decode ⟨0x01000001, []⟩ = .error .reservedImm ∧ decode ⟨0x01000000, []⟩ = .ok .nop ∧
    decode ⟨0x05000000, []⟩ = .ok .rderrw ∧ decode ⟨0x0300000A, []⟩ = .ok (.rdreg 10) ∧
    decode ⟨0x0300000B, []⟩ = .ok (.rdreg 11) ∧ decode ⟨0x02000000, []⟩ = .ok .clear := by decide

theorem witness_LifecycleRefusals :
    fatal ref = false ∧ ready ref = false ∧ fatal tbReady = false ∧ ready tbReady = true ∧
    (List.replicate 16 (0 : Byte)).length ≤ ref.wmax ∧ (List.replicate 16 (0 : Byte)).length ≤ tbReady.wmax :=
  ⟨by decide, by decide, by decide, by decide, by decide, by decide⟩

theorem witness_StaticRangeErrorsComeFirst :
    fatal ref = false ∧ fatal tbReady = false ∧ ref.wmax < (List.replicate 17 (0 : Byte)).length ∧
    10 < (11 : BitVec 24).toNat := ⟨by decide, by decide, by decide, by decide⟩

/-! Whole-machine rules: for each field, a command that changes it -/

theorem witness_BankAndIndexWriters :
    (∃ t, exec (.bankpush [0]) ref = .next t ∧ (t.bank.length, t.bcnt) = (1, 1)) ∧
    (∃ t, exec .clear tbReady = .next t ∧ (t.idx.length, ready t) = (0, false)) ∧
    (∃ t, exec .bclr tbReady = .next t ∧ ready t = true) ∧ ready tbReady = true :=
  ⟨exec_after (f := fun t => (t.bank.length, t.bcnt)) (by decide +kernel),
    exec_after (f := fun t => (t.idx.length, ready t)) (by decide +kernel),
    exec_after (f := ready) (by decide +kernel), by decide⟩

theorem witness_WorkingArrayWriters :
    (∃ t, exec (.bpush 1) ref = .next t ∧ t.buf = [1]) ∧ (∃ t, exec (.dpush 1) ref = .next t ∧ t.dig = [1]) :=
  ⟨exec_after (by decide +kernel), exec_after (by decide +kernel)⟩

theorem witness_FlagWriters :
    (∃ t, exec .clear { tbReady with status := 0x0000000D } = .next t ∧
      (ready t, flex t, retried t) = (false, false, false)) ∧
    (∃ t, exec (.wget 0) tbBroken = .next t ∧ fatal t = true) ∧ fatal tbBroken = false :=
  ⟨exec_after (f := fun t => (ready t, flex t, retried t)) (by decide +kernel),
    exec_after (f := fatal) (by decide +kernel), by decide⟩

theorem witness_ReadsHaveNoSideEffect :
    ∃ t, exec (.brd 0) { ref with buf := [5] } = .next t ∧ t.responses = ref.responses ++ [⟨0, 5, none⟩] :=
  exec_after (by decide +kernel)

theorem build_tbPushed : ∃ t, exec .build tbPushed = .next t ∧ lifecycle t = .ready := by
  have hd : firstDuplicate [] tbPushed.bank = none := (firstDuplicate_eq_none List.nodup_nil).mpr tb_nodup
  refine ⟨_, exec_of_ok (i := .build) (r := ⟨setReady true (setIdx (indexOf tbPushed.bank) tbPushed), 0, none⟩)
    (by decide +kernel) ?_, ?_⟩
  · rw [ruleOf, buildRule, if_neg (by decide), hd]; rfl
  · have hr : ready (setReady true (setIdx (indexOf tbPushed.bank) tbPushed)) = true := by simp
    have hf : fatal (setReady true (setIdx (indexOf tbPushed.bank) tbPushed)) = false := by simp; decide
    simp [lifecycle, hr, hf]

/-- All three ways of leaving a lifecycle state. -/
theorem witness_LifecycleTransitions :
    lifecycle tbPushed = .unbuilt ∧ (∃ t, exec .build tbPushed = .next t ∧ lifecycle t = .ready) ∧
    lifecycle tbReady = .ready ∧ (∃ t, exec .clear tbReady = .next t ∧ lifecycle t = .unbuilt) ∧
    lifecycle tbBroken = .ready ∧ (∃ t, exec (.wget 0) tbBroken = .next t ∧ lifecycle t = .fatal) :=
  ⟨by decide, build_tbPushed, by decide, exec_after (f := lifecycle) (by decide +kernel), by decide,
    exec_after (f := lifecycle) (by decide +kernel)⟩

/-! System commands and the bank -/

/-- The first and the last register. -/
theorem witness_NopAndRegisterReadsInEveryState :
    [(0x08000B08 : Reg), 0, 0, 0, 0, 0, 0, 0, 0, 0, 1][(0 : BitVec 24).toNat]? = some 0x08000B08 ∧
    [(0x08000B08 : Reg), 0, 0, 0, 0, 0, 0, 0, 0, 0, 1][(10 : BitVec 24).toNat]? = some 1 := by decide

theorem witness_ClearIsReset : fatal tbReady = false ∧ fatal tbFatal = true := by decide
theorem witness_HostReportsOfAFatalBlock : fatal tbFatal = true := by decide
theorem witness_ClearErrorsClearsTheLatchesOnly : fatal tbReady = false := by decide

/-- An empty bank, a full one, and a count at its end. -/
theorem witness_BankPushFillsTheNextSlot :
    Inv ref ∧ Inv tbPushed ∧ fatal ref = false ∧ ready ref = false ∧ fatal tbPushed = false ∧ ready tbPushed = false ∧
    (List.replicate 16 (0 : Byte)).length ≤ ref.wmax ∧ tbPushed.bcnt.toNat = 2048 :=
  ⟨inv_ref, inv_tbPushed, by decide, by decide, by decide, by decide, by decide, by decide⟩

theorem witness_BuildConstructsTheCodec :
    Inv tbPushed ∧ fatal tbPushed = false ∧ ready tbPushed = false ∧ tbPushed.bcnt = 2048 ∧ tbPushed.bank.Nodup :=
  ⟨inv_tbPushed, by decide, by decide, rfl, tb_nodup⟩

/-- No word pushed, and 2048 equal ones. -/
theorem witness_BuildFailsOnSizeThenOnDuplicate :
    (Inv ref ∧ fatal ref = false ∧ ready ref = false ∧ ref.bcnt ≠ 2048) ∧
    (Inv sameBank ∧ fatal sameBank = false ∧ ready sameBank = false ∧ sameBank.bcnt = 2048 ∧
      sameBank.bank[0]? = some [] ∧ sameBank.bank[1]? = some [] ∧ (∀ a, a < 0 → sameBank.bank[a]? ≠ some []) ∧
      (∀ a b, a < b → b < 1 → sameBank.bank[a]? ≠ sameBank.bank[b]?)) :=
  ⟨⟨inv_ref, by decide, by decide, by decide⟩, inv_sameBank, by decide, by decide, rfl, by decide +kernel, by decide +kernel,
    fun a h => absurd h (Nat.not_lt_zero a), fun a b h h' => by omega⟩

theorem witness_BankReadsForwardAndBack :
    Inv tbReady ∧ fatal tbReady = false ∧ ready tbReady = true ∧ ([] : Word).length ≤ tbReady.wmax ∧ [] ∉ tbReady.bank :=
  ⟨inv_tbReady, by decide, by decide, Nat.zero_le _, fun h => absurd (length_of_mem_tb h) (by decide)⟩

theorem witness_BankAndIndexAreInverse : Inv tbReady ∧ ready tbReady = true := ⟨inv_tbReady, by decide⟩

/-- A bank of the wrong size, a valid one, and one with a duplicate. -/
theorem witness_ConstructionAcceptsExactlyTheValidBanks :
    ([] : List Word).length ≠ 2048 ∧ tb.length = 2048 ∧ tb.Nodup ∧ sameBank.bank.length = 2048 ∧
    ¬sameBank.bank.Nodup :=
  ⟨by decide, length_tb, tb_nodup, by decide +kernel, fun h => by
      unfold sameBank same at h
      exact absurd (List.nodup_replicate.mp h) (by decide)⟩

/-! The working arrays -/

theorem witness_ClearingAnArray : fatal ref = false := by decide

/-- One element below the capacities of the small configuration, and at them. -/
def nearlyFull : State := { small with buf := [1, 2, 3], dig := [1, 2] }
def full : State := { small with buf := [1, 2, 3, 4], dig := [1, 2, 3] }

theorem witness_PushingAnElement :
    (fatal nearlyFull = false ∧ nearlyFull.buf.length < nearlyFull.bufCap ∧
      nearlyFull.dig.length < nearlyFull.digCap) ∧
    (fatal full = false ∧ full.buf.length = full.bufCap ∧ full.dig.length = full.digCap) := by decide

/-- The last valid index and the first invalid one. -/
theorem witness_ReadingAnElement :
    fatal full = false ∧ full.buf[(3 : BitVec 24).toNat]? = some 4 ∧ full.buf.length ≤ (4 : BitVec 24).toNat ∧
    full.dig[(2 : BitVec 24).toNat]? = some 3 ∧ full.dig.length ≤ (3 : BitVec 24).toNat := by decide

theorem inv_full : Inv full := { inv_small with memory := by decide }

/-- The four pushes running, and the four failing: two on a full array, one without a codec and one on a sealed bank. -/
theorem witness_PushesKeepTheEarlierElements :
    (Inv small ∧ (∃ t, exec (.bpush 1) small = .next t) ∧ (∃ t, exec (.dpush 1) small = .next t) ∧
      (∃ t, exec (.wpush []) small = .next t) ∧ ∃ t, exec (.bankpush []) small = .next t) ∧
    (Inv full ∧ Inv tbReady ∧
      (∃ t r, exec (.bpush 1) full = .next t ∧ t.responses = full.responses ++ [r] ∧ r.err ≠ 0) ∧
      (∃ t r, exec (.dpush 1) full = .next t ∧ t.responses = full.responses ++ [r] ∧ r.err ≠ 0) ∧
      (∃ t r, exec (.wpush []) full = .next t ∧ t.responses = full.responses ++ [r] ∧ r.err ≠ 0) ∧
      ∃ t r, exec (.bankpush []) tbReady = .next t ∧ t.responses = tbReady.responses ++ [r] ∧ r.err ≠ 0) :=
  ⟨⟨inv_small, exec_next _ _, exec_next _ _, exec_next _ _, exec_next _ _⟩, inv_full, inv_tbReady,
    ⟨_, ⟨9, 0x21000001, none⟩, rfl, rfl, by decide⟩, ⟨_, ⟨9, 0x25000001, none⟩, rfl, rfl, by decide⟩,
    ⟨_, ⟨7, 0x27000000, none⟩, rfl, rfl, by decide⟩, ⟨_, ⟨8, 0x10000000, none⟩, rfl, rfl, by decide⟩⟩

/-- A bank word with room, an unknown word, and a bank word on a full array. -/
theorem witness_WordPushAppendsItsDigit :
    (Inv tbReady ∧ fatal tbReady = false ∧ ready tbReady = true ∧ (tbWord 0).length ≤ tbReady.wmax ∧
      tbReady.bank[(0 : Digit).toNat]? = some (tbWord 0) ∧ tbReady.dig.length < tbReady.digCap ∧ [] ∉ tbReady.bank) ∧
    (Inv tbFull ∧ fatal tbFull = false ∧ ready tbFull = true ∧ tbWord 0 ∈ tbFull.bank ∧
      tbFull.dig.length = tbFull.digCap) :=
  ⟨⟨inv_tbReady, by decide, by decide, by decide, by decide +kernel, by decide,
      fun h => absurd (length_of_mem_tb h) (by decide)⟩,
    inv_tbFull, by decide, by decide, by decide +kernel, by decide⟩

/-- A good index, a broken one, and an index beyond CNT. -/
theorem witness_WordGetReadsThroughTheBank :
    (fatal tbFull = false ∧ ready tbFull = true ∧ tbFull.dig[(0 : BitVec 24).toNat]? = some 0 ∧
      tbFull.bank[(0 : Digit).toNat]? = some (tbWord 0) ∧ lookup tbFull.idx (tbWord 0) = some 0 ∧
      tbFull.dig.length ≤ (1 : BitVec 24).toNat) ∧
    (fatal tbBroken = false ∧ ready tbBroken = true ∧ tbBroken.dig[(0 : BitVec 24).toNat]? = some 2 ∧
      tbBroken.bank[(2 : Digit).toNat]? = some (tbWord 2) ∧ lookup tbBroken.idx (tbWord 2) ≠ some 2) :=
  ⟨⟨by decide, by decide, by decide, by decide +kernel, by decide +kernel, by decide⟩,
    by decide, by decide, by decide, by decide +kernel, by decide +kernel⟩

/-! The aligner and the converter -/

theorem witness_LengthQueries : fatal ref = false := by decide

theorem witness_DropLeadingByte :
    fatal { ref with buf := [0, 1] } = false ∧ ({ ref with buf := [0, 1] } : State).buf = 0 :: [1] ∧
    fatal ref = false ∧ ref.buf = [] := ⟨by decide, rfl, by decide, rfl⟩

/-- The greatest value that fits one byte. -/
theorem witness_PositionalFunctionsByIndex : 255 < 256 ^ 1 := by decide

theorem witness_ConverterRoundTrips : fromDigits [255] < 256 ^ 1 := by decide

/-- Four bytes are three digits, the capacity; a block of two digits has no room for them. -/
theorem witness_BytesToDigitsCommand :
    fatal full = false ∧ wordlen full.buf.length ≤ full.digCap ∧ fatal { full with digCap := 2 } = false ∧
    ({ full with digCap := 2 } : State).digCap < wordlen full.buf.length := by decide

/-- A reference state with the digits `d`. -/
def withDig (d : List Digit) : State := { ref with dig := d }

/-- The greatest one-digit value that fits and the least that does not; three digits with room for three bytes. -/
theorem witness_DigitsToBytesCommand :
    (fatal (withDig [255]) = false ∧ bytelen (withDig [255]).dig.length ≤ (withDig [255]).bufCap ∧
      fromDigits (withDig [255]).dig < 256 ^ bytelen (withDig [255]).dig.length) ∧
    (fatal (withDig [256]) = false ∧ bytelen (withDig [256]).dig.length ≤ (withDig [256]).bufCap ∧
      256 ^ bytelen (withDig [256]).dig.length ≤ fromDigits (withDig [256]).dig) ∧
    (fatal { full with bufCap := 3 } = false ∧
      ({ full with bufCap := 3 } : State).bufCap < bytelen full.dig.length) :=
  ⟨⟨by decide, by decide, by decide⟩, ⟨by decide, by decide, by decide⟩, by decide, by decide⟩

/-! The codec -/

theorem witness_ProviderLaws :
    Inv ref ∧ verifyStrip t1 [2, 4] = .ok [2] ∧ ([] : List Byte).length < 1 := ⟨inv_ref, by decide +kernel, by decide⟩

/-- The laws are met by the functions of T1. -/
theorem witness_EveryLawfulProviderIsModelled :
    (∀ b, (append t1 b).length = b.length + 1) ∧ (∀ b, (append t1 b).take b.length = b) ∧
    (∀ c p, verifyStrip t1 c = .ok p → 1 ≤ c.length ∧ p = c.take (c.length - 1)) ∧
    (∀ b, verifyStrip t1 (append t1 b) = .ok b) :=
  ⟨fun b => length_append_code t1 b, fun b => by simp [append], fun _ _ h => verifyStrip_ok t1 h,
    fun b => by simp [verifyStrip, append]⟩

/-- Three bytes and the code fill four bytes; four bytes and the code do not fit. -/
theorem witness_AppendChecksumCommand :
    (fatal nearlyFull = false ∧ nearlyFull.buf.length + nearlyFull.csw ≤ nearlyFull.bufCap) ∧
    (fatal full = false ∧ full.bufCap < full.buf.length + full.csw) := by decide

/-- A buffer that the attached provider accepts, whatever it is, and one that it rejects. -/
theorem witness_VerifyChecksumCommand :
    fatal { ref with buf := append (Config.provider 1) [7] } = false ∧
    verifyStrip (Config.provider 1) (append (Config.provider 1) [7]) = .ok [7] ∧
    verifyStrip (Config.provider 1) [] = .error ((Config.provider 1).error []) ∧ ref.buf.length < ref.csw :=
  ⟨by decide, by simp [verifyStrip, append], verifyStrip_short _ (by decide), by decide⟩

/-- A codec (of no bank: the statement asks for none) in the small configuration, and one with more room for bytes. -/
def codec : State := { full with status := 1 }
def codecWide : State := { full with status := 1, bufCap := 8 }

/-- Room for both; too many bytes; too many digits. -/
theorem witness_EncodeCommand :
    (fatal tbReady = false ∧ ready tbReady = true ∧ tbReady.buf.length + tbReady.csw ≤ tbReady.bufCap ∧
      wordlen (tbReady.buf.length + tbReady.csw) ≤ tbReady.digCap) ∧
    (fatal codec = false ∧ ready codec = true ∧ codec.bufCap < codec.buf.length + codec.csw) ∧
    (fatal codecWide = false ∧ ready codecWide = true ∧
      codecWide.buf.length + codecWide.csw ≤ codecWide.bufCap ∧
      codecWide.digCap < wordlen (codecWide.buf.length + codecWide.csw)) :=
  ⟨⟨by decide, by decide, by decide, by decide⟩, ⟨by decide, by decide, by decide⟩, by decide, by decide, by decide,
    by decide⟩

theorem witness_EncodeIsAppendThenConvert :
    fatal tbReady = false ∧ ready tbReady = true ∧ tbReady.buf.length + tbReady.csw ≤ tbReady.bufCap ∧
    wordlen (tbReady.buf.length + tbReady.csw) ≤ tbReady.digCap ∧
    ∃ t u v, exec .encode tbReady = .next t ∧ exec .csapp tbReady = .next u ∧ exec .b2d u = .next v := by
  obtain ⟨t, ht⟩ := exec_next .encode tbReady
  obtain ⟨u, hu⟩ := exec_next .csapp tbReady
  obtain ⟨v, hv⟩ := exec_next .b2d u
  exact ⟨by decide, by decide, by decide, by decide, t, u, v, ht, hu, hv⟩

/-- No room for the candidate; a value too large; a candidate. -/
theorem witness_DecodeCommand :
    (fatal { codec with bufCap := 3 } = false ∧ ready { codec with bufCap := 3 } = true ∧
      ({ codec with bufCap := 3 } : State).bufCap < bytelen codec.dig.length) ∧
    (fatal { codec with dig := [2047] } = false ∧ ready { codec with dig := [2047] } = true ∧
      bytelen [(2047 : Digit)].length ≤ codec.bufCap ∧ 256 ^ bytelen [(2047 : Digit)].length ≤ fromDigits [2047]) ∧
    (fatal codec = false ∧ ready codec = true ∧ bytelen codec.dig.length ≤ codec.bufCap ∧
      fromDigits codec.dig < 256 ^ bytelen codec.dig.length) :=
  ⟨⟨by decide, by decide, by decide⟩, ⟨by decide, by decide, by decide, by decide⟩, by decide, by decide, by decide,
    by decide⟩

/-- A length that needs no premise; one that does, where T1 meets the premise and S1 does not. -/
theorem witness_RoundTripInItsExactForm :
    (([0] : List Byte).length + 1) % 11 ∉ [3, 7, 10] ∧ (([0xAB, 0xCD] : List Byte).length + 1) % 11 ∈ [3, 7, 10] ∧
    NoZeroPrefixCollision t1 [0xAB, 0xCD] ∧ ¬NoZeroPrefixCollision s1 [0xAB, 0xCD] ∧
    (tb.length = 2048 ∧ tb.Nodup ∧
      decodeDigits t1 (encodeDigits t1 [0xAB, 0xCD]) = .ok ([0xAB, 0xCD], true)) := by
  refine ⟨by decide, by decide, ⟨2, by decide +kernel⟩, ?_, length_tb, tb_nodup, by decide +kernel⟩
  rintro ⟨e, he⟩
  have : verifyStrip s1 (0 :: append s1 [0xAB, 0xCD]) = .ok [0, 0xAB, 0xCD] := by decide +kernel
  rw [this] at he
  exact absurd he (by simp)

/-- A known word and then an unknown one; the least digit with the slack bit of a three-digit array set. -/
theorem witness_MessagesThatMustFail :
    (1 : Nat) ≤ 1 ∧ (∀ y ∈ [[(1 : Byte)]], lookup [([1], 5)] y ≠ none) ∧ lookup [([(1 : Byte)], 5)] [2] = none ∧
    2 ^ (11 - slackBits ([(0 : Digit), 0].length + 1)) ≤ (1024 : Digit).toNat := by decide

/-! The host's procedures -/

theorem witness_HostEncodeReturnsTheMessage :
    Inv tbReady ∧ fatal tbReady = false ∧ ready tbReady = true ∧ [(1 : Byte)].length + tbReady.csw ≤ tbReady.bufCap ∧
    wordlen ([(1 : Byte)].length + tbReady.csw) ≤ tbReady.digCap :=
  ⟨inv_tbReady, by decide, by decide, by decide, by decide⟩

theorem witness_HostDecodeReturnsThePayload :
    Inv tbReady ∧ fatal tbReady = false ∧ ready tbReady = true ∧ [tbWord 0].length ≤ tbReady.digCap ∧
    bytelen [tbWord 0].length ≤ tbReady.bufCap := ⟨inv_tbReady, by decide, by decide, by decide, by decide⟩

theorem witness_HostConstructionBuildsTheCodec :
    Inv ref ∧ fatal ref = false ∧ tb.length = 2048 ∧ tb.Nodup ∧ ∀ x ∈ tb, x.length ≤ ref.wmax :=
  ⟨inv_ref, by decide, length_tb, tb_nodup, fun x h => by rw [length_of_mem_tb h]; decide⟩

/-! How an instruction is placed and run -/

theorem test_withFetchWord :
    (step (State.reset.withFetchWord 32 0x210000AB)) = exec (.bpush 0xAB) State.reset := by rfl

end Sys2Proof.Tests
end

/-! # The state family: what a command can write, the invariant, and the writers of each part of the state -/

namespace Sys2Proof.Machine

/-! ## The step (R15, R56) -/

theorem step_of_program {s : State} {p : Packet} {rest : List Packet} (h : s.program = p :: rest) :
    step s = stepPacket p (setProgram rest s) := by
  simp [step, h]

theorem stepPacket_of_decode_ok {p : Packet} {i : Instr} (s : State) (h : Sys2Proof.decode p = .ok i) :
    stepPacket p s = exec i s := by
  simp [stepPacket, h]

theorem stepPacket_of_decode_error {p : Packet} {e : DecodeError} (s : State) (h : Sys2Proof.decode p = .error e) :
    stepPacket p s = .next (raise (.illegalCommand p.hdr p.payload.length) s) := by
  simp [stepPacket, h]

/-- All a step can do: hold the state when there is no packet, or take the next packet and run its command or fail with
`IllegalCommand`. -/
theorem step_cases {s t : State} (h : step s = .next t) :
    t = s ∨
    (∃ rest i, exec i (setProgram rest s) = .next t) ∨
    ∃ rest hdr n, t = raise (.illegalCommand hdr n) (setProgram rest s) := by
  cases hp : s.program with
  | nil => exact .inl (by simpa [step, hp] using h.symm)
  | cons p rest =>
    rw [step_of_program hp] at h
    cases hd : Sys2Proof.decode p with
    | ok i => exact .inr (.inl ⟨rest, i, by rwa [stepPacket_of_decode_ok _ hd] at h⟩)
    | error e =>
      rw [stepPacket_of_decode_error _ hd] at h
      injection h with h
      exact .inr (.inr ⟨rest, p.hdr, p.payload.length, h.symm⟩)

/-! ## What a command can do -/

/-- The command `i` fails on `s` with `f`: in the prologue, or in its own rule behind it (R65, R129). -/
def Fails (i : Instr) (s : State) (f : Failure) : Prop :=
  prologue i s = some f ∨ (prologue i s = none ∧ ruleOf i s = .error f)

/-- The writes that a command makes on `s` when it succeeds, by the family of the command; the response is not yet given.
A new BUF or DIG fits its capacity as soon as the old one does. -/
inductive Writes (s : State) : Instr → State → Prop
  | nothing {i : Instr} : Writes s i s
  | clear : Writes s .clear (clearAll s)
  | clrerr : Writes s .clrerr (setLatches 0 0 0 [] s)
  | bankpush (x : Word) :
      Writes s (.bankpush x)
        (setBank (if s.bcnt.toNat < 2048 then memWrite s.bank s.bcnt.toNat [x] else s.bank) (satIncr s.bcnt) s)
  | build (size : s.bcnt = 2048) (distinct : s.bank.Nodup) :
      Writes s .build (setReady true (setIdx (indexOf s.bank) s))
  | buf {i : Instr} {b : List Byte} (writer : (∃ c, i = .bpush c) ∨ i ∈ [.bclr, .drop1, .csapp, .csver])
      (fits : s.buf.length ≤ s.bufCap → b.length ≤ s.bufCap) : Writes s i (setBuf b s)
  | dig {i : Instr} {d : List Digit} (writer : (∃ z, i = .dpush z) ∨ (∃ x, i = .wpush x) ∨ i ∈ [.dclr, .b2d])
      (fits : s.dig.length ≤ s.digCap → d.length ≤ s.digCap) : Writes s i (setDig d s)
  | encode {b : List Byte} {d : List Digit} (bufFits : b.length ≤ s.bufCap) (digFits : d.length ≤ s.digCap) :
      Writes s .encode (setDig d (setBuf b s))
  | d2b {b : List Byte} (flexible : Bool) (fits : b.length ≤ s.bufCap) :
      Writes s .d2b (setFlex flexible (setBuf b s))
  | decode {b : List Byte} (flexible again : Bool) (fits : b.length ≤ s.bufCap) :
      Writes s .decode (setRetried again (setFlex flexible (setBuf b s)))

/-- A rule that succeeds makes the writes of its command's family. -/
theorem ruleOf_writes {i : Instr} {s : State} {r : Reply} (h : ruleOf i s = .ok r) : Writes s i r.st := by
  rcases ruleOf_ok h with ⟨hst, -⟩ | ⟨rfl, hst⟩ | ⟨rfl, hst⟩ | ⟨x, rfl, hst⟩ | ⟨rfl, hn, hd, hst⟩ | ⟨b, hb, hst⟩ |
    ⟨d, hd, hst⟩ | ⟨b, d, rfl, hb, hd, hst⟩ | ⟨b, f, rfl, hb, hst⟩ | ⟨b, f, a, rfl, hb, hst⟩ <;> rw [hst]
  · exact .nothing
  · exact .clear
  · exact .clrerr
  · exact .bankpush x
  · exact .build hn (by simpa using (firstDuplicate_eq_none List.nodup_nil).mp hd)
  · obtain ⟨c, rfl, rfl, hne⟩ | ⟨rfl, rfl⟩ | ⟨rfl, rfl⟩ | ⟨rfl, hle⟩ | ⟨rfl, hle⟩ := hb
    · exact .buf (.inl ⟨c, rfl⟩) fun _ => by rw [List.length_append, List.length_singleton]; omega
    · exact .buf (by simp) fun _ => Nat.zero_le _
    · exact .buf (by simp) fun hfit => by rw [List.length_drop]; omega
    · exact .buf (by simp) fun _ => hle
    · exact .buf (by simp) fun hfit => hle.trans hfit
  · obtain ⟨z, rfl, rfl, hne⟩ | ⟨x, z, rfl, rfl, hne⟩ | ⟨rfl, rfl⟩ | ⟨rfl, hle⟩ := hd
    · exact .dig (.inl ⟨z, rfl⟩) fun _ => by rw [List.length_append, List.length_singleton]; omega
    · exact .dig (.inr (.inl ⟨x, rfl⟩)) fun _ => by rw [List.length_append, List.length_singleton]; omega
    · exact .dig (by simp) fun _ => Nat.zero_le _
    · exact .dig (by simp) fun _ => hle
  · exact .encode hb hd
  · exact .d2b f hb
  · exact .decode f a hb

/-- All a command can do: fail and take the failure, or pass the prologue, make its writes and answer with `err = 0`. -/
theorem exec_outcome {i : Instr} {s t : State} (h : exec i s = .next t) :
    (∃ f, Fails i s f ∧ t = raise f s) ∨
    (∃ r u, prologue i s = none ∧ Writes s i u ∧ r.err = 0 ∧ t = pushResponse r u) := by
  rcases exec_cases h with ⟨f, hp, rfl⟩ | ⟨f, hp, hr, rfl⟩ | ⟨r, hp, hr, rfl⟩
  · exact .inl ⟨f, .inl hp, rfl⟩
  · exact .inl ⟨f, .inr ⟨hp, hr⟩, rfl⟩
  · exact .inr ⟨_, r.st, hp, ruleOf_writes hr, rfl, rfl⟩

/-- The only command that fails with a failure that sets FATAL is `WGET` (R92, R143). -/
theorem Fails.wget_of_failSetsFatal {i : Instr} {s : State} {f : Failure} (h : Fails i s f)
    (hf : failSetsFatal f = true) : ∃ j, i = .wget j := by
  obtain hp | ⟨-, hr⟩ := h
  · rw [prologue_failSetsFatal hp] at hf
    exact absurd hf (by decide)
  · exact ruleOf_failSetsFatal hr hf

theorem raise_params (f : Failure) (s : State) :
    (raise f s).wmax = s.wmax ∧ (raise f s).bufCap = s.bufCap ∧ (raise f s).digCap = s.digCap ∧
      (raise f s).csw = s.csw := by
  have hk := raise_keepsWork f s
  exact ⟨hk.wmax, hk.bufCap, hk.digCap, hk.csw⟩

/-! ## The frame of the writes -/

section
variable {i : Instr} {s u : State}

theorem Writes.params (h : Writes s i u) :
    u.wmax = s.wmax ∧ u.bufCap = s.bufCap ∧ u.digCap = s.digCap ∧ u.csw = s.csw := by
  cases h <;> exact ⟨rfl, rfl, rfl, rfl⟩

theorem Writes.responses (h : Writes s i u) : u.responses = s.responses := by cases h <;> rfl

theorem Writes.latches (h : Writes s i u) (hclear : i ≠ .clear) (hclrerr : i ≠ .clrerr) :
    err u = err s ∧ u.errinfo = s.errinfo ∧ u.erraux = s.erraux ∧ u.errword = s.errword := by
  cases h with
  | clear => exact absurd rfl hclear
  | clrerr => exact absurd rfl hclrerr
  | _ => simp

theorem Writes.bank (h : Writes s i u) :
    (u.bank = s.bank ∧ u.bcnt = s.bcnt) ∨ i = .clear ∨ ∃ x, i = .bankpush x := by
  cases h with
  | clear => exact .inr (.inl rfl)
  | bankpush x => exact .inr (.inr ⟨x, rfl⟩)
  | _ => exact .inl ⟨rfl, rfl⟩

theorem Writes.index (h : Writes s i u) : (u.idx = s.idx ∧ ready u = ready s) ∨ i = .clear ∨ i = .build := by
  cases h with
  | clear => exact .inr (.inl rfl)
  | build => exact .inr (.inr rfl)
  | _ => simp

theorem Writes.fatal (h : Writes s i u) : fatal u = fatal s ∨ (i = .clear ∧ fatal u = false) := by
  cases h with
  | clear => exact .inr ⟨rfl, fatal_clearAll s⟩
  | _ => simp

theorem Writes.flex (h : Writes s i u) : flex u = flex s ∨ i = .d2b ∨ i = .decode ∨ i = .clear := by
  cases h <;> simp

theorem Writes.retried (h : Writes s i u) : retried u = retried s ∨ i = .decode ∨ i = .clear := by
  cases h <;> simp

theorem Writes.buf_eq (h : Writes s i u) :
    u.buf = s.buf ∨
      (∃ b, i = .bpush b) ∨ i ∈ [.clear, .bclr, .drop1, .d2b, .csapp, .csver, .encode, .decode] := by
  cases h with
  | buf writer => exact .inr (writer.imp_right fun hi => by revert hi; simp; tauto)
  | _ => simp

theorem Writes.dig_eq (h : Writes s i u) :
    u.dig = s.dig ∨ (∃ d, i = .dpush d) ∨ (∃ x, i = .wpush x) ∨ i ∈ [.clear, .dclr, .b2d, .encode] := by
  cases h with
  | dig writer => exact .inr (writer.imp_right (Or.imp_right fun hi => by revert hi; simp; tauto))
  | _ => simp

end

/-! ## The frame of a command, whether it fails or not -/

section
variable {i : Instr} {s t : State}

theorem exec_params (h : exec i s = .next t) :
    t.wmax = s.wmax ∧ t.bufCap = s.bufCap ∧ t.digCap = s.digCap ∧ t.csw = s.csw := by
  obtain ⟨f, -, rfl⟩ | ⟨r, u, -, hw, -, rfl⟩ := exec_outcome h
  · exact raise_params f s
  · exact hw.params

/-- BANK and BCNT change only by `CLEAR`, or by `BANKPUSH` while READY = 0 (R18, R19, R142). -/
theorem exec_bank (h : exec i s = .next t) :
    (t.bank = s.bank ∧ t.bcnt = s.bcnt) ∨ i = .clear ∨ ((∃ x, i = .bankpush x) ∧ ready s = false) := by
  obtain ⟨f, -, rfl⟩ | ⟨r, u, hp, hw, -, rfl⟩ := exec_outcome h
  · have hk := raise_keepsWork f s
    exact .inl ⟨hk.bank, hk.bcnt⟩
  · obtain ⟨-, -, -, hsealed⟩ := prologue_eq_none.mp hp
    obtain hkeep | rfl | ⟨x, rfl⟩ := hw.bank
    · exact .inl hkeep
    · exact .inr (.inl rfl)
    · exact .inr (.inr ⟨⟨x, rfl⟩, hsealed rfl⟩)

/-- IDX and READY change only by `CLEAR`, or by `BUILD` while READY = 0 (R20, R24, R142). -/
theorem exec_index (h : exec i s = .next t) :
    (t.idx = s.idx ∧ ready t = ready s) ∨ i = .clear ∨ (i = .build ∧ ready s = false) := by
  obtain ⟨f, -, rfl⟩ | ⟨r, u, hp, hw, -, rfl⟩ := exec_outcome h
  · have hk := raise_keepsWork f s
    exact .inl ⟨hk.idx, hk.ready⟩
  · obtain ⟨-, -, -, hsealed⟩ := prologue_eq_none.mp hp
    obtain hkeep | rfl | rfl := hw.index
    · exact .inl hkeep
    · exact .inr (.inl rfl)
    · exact .inr (.inr ⟨rfl, hsealed rfl⟩)

theorem exec_buf (h : exec i s = .next t) :
    t.buf = s.buf ∨
      (∃ b, i = .bpush b) ∨ i ∈ [.clear, .bclr, .drop1, .d2b, .csapp, .csver, .encode, .decode] := by
  obtain ⟨f, -, rfl⟩ | ⟨r, u, -, hw, -, rfl⟩ := exec_outcome h
  · exact .inl (raise_keepsWork f s).buf
  · exact hw.buf_eq

theorem exec_dig (h : exec i s = .next t) :
    t.dig = s.dig ∨ (∃ d, i = .dpush d) ∨ (∃ x, i = .wpush x) ∨ i ∈ [.clear, .dclr, .b2d, .encode] := by
  obtain ⟨f, -, rfl⟩ | ⟨r, u, -, hw, -, rfl⟩ := exec_outcome h
  · exact .inl (raise_keepsWork f s).dig
  · exact hw.dig_eq

theorem exec_flex (h : exec i s = .next t) : flex t = flex s ∨ i = .d2b ∨ i = .decode ∨ i = .clear := by
  obtain ⟨f, -, rfl⟩ | ⟨r, u, -, hw, -, rfl⟩ := exec_outcome h
  · exact .inl (raise_keepsWork f s).flex
  · exact hw.flex

theorem exec_retried (h : exec i s = .next t) : retried t = retried s ∨ i = .decode ∨ i = .clear := by
  obtain ⟨f, -, rfl⟩ | ⟨r, u, -, hw, -, rfl⟩ := exec_outcome h
  · exact .inl (raise_keepsWork f s).retried
  · exact hw.retried

/-- FATAL is set by `WGET`'s sanity check alone (R25, R92), and no command clears it: `CLEAR` runs only while it is 0. -/
theorem exec_fatal (h : exec i s = .next t) :
    fatal t = fatal s ∨ (∃ j f, i = .wget j ∧ Fails i s f ∧ failSetsFatal f = true ∧ fatal t = true) := by
  obtain ⟨f, hf, rfl⟩ | ⟨r, u, hp, hw, -, rfl⟩ := exec_outcome h
  · cases hset : failSetsFatal f with
    | false => exact .inl (by rw [fatal_raise, hset, Bool.or_false])
    | true =>
      obtain ⟨j, rfl⟩ := hf.wget_of_failSetsFatal hset
      exact .inr ⟨j, f, rfl, hf, hset, by rw [fatal_raise, hset, Bool.or_true]⟩
  · obtain ⟨hgate, -, -, -⟩ := prologue_eq_none.mp hp
    obtain hkeep | ⟨rfl, hzero⟩ := hw.fatal
    · exact .inl hkeep
    · have hclear : fatal s = false := by simpa [needs] using hgate
      exact .inl (hzero.trans hclear.symm)

end

/-! ## The invariant under each update (R31) -/

theorem inv_reset : Inv State.reset where
  wmaxRange := ⟨Nat.le_add_left 1 _, Config.wmaxPred.isLt⟩
  bufCapRange := ⟨Nat.le_add_left 1 _, Nat.succ_lt_succ Config.bufCapPred.isLt⟩
  digCapRange := ⟨Nat.le_add_left 1 _, Nat.succ_lt_succ Config.digCapPred.isLt⟩
  cswRange := ⟨Nat.le_add_left 1 _, Nat.succ_lt_succ Config.kPred.isLt⟩
  memory := reset_memory_wf
  whenReady := fun h => absurd h (by decide)
  whenNotReady := fun _ => rfl
  bankWords := fun _ h => absurd h List.not_mem_nil
  errWord := Nat.zero_le _
  reserved := by decide
  errCode := by decide
  fatalReady := fun h => absurd h (by decide)

theorem mem_memWrite {α : Type} {S v : List α} {a : Nat} {y : α} (h : y ∈ memWrite S a v) : y ∈ S ∨ y ∈ v := by
  rw [memWrite, List.mem_append, List.mem_append] at h
  obtain (h | h) | h := h
  · exact .inl (List.mem_of_mem_take h)
  · exact .inr h
  · exact .inl (List.mem_of_mem_drop h)

namespace Inv

variable {s : State}

/-- The invariant does not see the responses. -/
theorem pushResponse (h : Inv s) (r : Response) : Inv (pushResponse r s) := { h with }

/-- The invariant does not see the host's program. -/
theorem setProgram (h : Inv s) (ps : List Packet) : Inv (setProgram ps s) := { h with }

theorem setBuf (h : Inv s) {b : List Byte} (hb : s.buf.length ≤ s.bufCap → b.length ≤ s.bufCap) :
    Inv (setBuf b s) :=
  { h with memory := setBuf_memory_wf h.memory (hb ((memory_wf_iff s).mp h.memory).1) }

theorem setDig (h : Inv s) {d : List Digit} (hd : s.dig.length ≤ s.digCap → d.length ≤ s.digCap) :
    Inv (setDig d s) :=
  { h with memory := setDig_memory_wf h.memory (hd ((memory_wf_iff s).mp h.memory).2.1) }

/-- Bits 2 and 3 of STATUS, FLEX and RETRIED, are free in the invariant. -/
theorem setStatusBit (h : Inv s) {n : Nat} (hlo : 2 ≤ n) (hhi : n < 4) (v : Bool) :
    Inv { s with status := setBit s.status n v } :=
  have hbit (m : Nat) (hm : m < 2) : (setBit s.status n v).getLsbD m = s.status.getLsbD m := by
    rw [getLsbD_setBit _ n m v (by omega), if_neg (by omega)]
  { h with
    whenReady := by simpa only [ready, hbit 0 (by decide)] using h.whenReady
    whenNotReady := by simpa only [ready, hbit 0 (by decide)] using h.whenNotReady
    reserved := reserved_setBit _ n v hhi h.reserved
    errCode := by simpa only [err, errField_setBit _ n v (by omega : n < 8)] using h.errCode
    fatalReady := by simpa only [fatal, ready, hbit 0 (by decide), hbit 1 (by decide)] using h.fatalReady }

theorem setFlex (h : Inv s) (v : Bool) : Inv (setFlex v s) := h.setStatusBit (by decide) (by decide) v

theorem setRetried (h : Inv s) (v : Bool) : Inv (setRetried v s) := h.setStatusBit (by decide) (by decide) v

/-- The latches may take any code of R130 and any word of at most WMAX bytes. -/
theorem setLatches (h : Inv s) {e : BitVec 8} (info aux : Reg) {x : Word} (he : e.toNat ≤ 11)
    (hx : x.length ≤ s.wmax) : Inv (setLatches e info aux x s) :=
  { h with
    whenReady := by simpa using h.whenReady
    whenNotReady := by simpa using h.whenNotReady
    errWord := hx
    reserved := reserved_setErrField _ _ h.reserved
    errCode := by simpa using he
    fatalReady := by simpa using h.fatalReady }

theorem clearAll (h : Inv s) : Inv (clearAll s) :=
  { h with
    memory := clearAll_memory_wf s
    whenReady := by simp
    whenNotReady := fun _ => rfl
    bankWords := fun _ hx => absurd hx List.not_mem_nil
    errWord := Nat.zero_le _
    reserved := BitVec.zero_and
    errCode := by simp
    fatalReady := by simp }

/-- While READY = 0 a push leaves the empty index as it is, so R31(c) and (d) are not touched. -/
theorem bankpush (h : Inv s) {x : Word} (hx : x.length ≤ s.wmax) (hready : ready s = false) :
    Inv (setBank (if s.bcnt.toNat < 2048 then memWrite s.bank s.bcnt.toNat [x] else s.bank) (satIncr s.bcnt) s) :=
  { h with
    memory := bankpush_memory_wf x h.memory
    whenReady := by simp [hready]
    bankWords := by
      intro y hy
      rw [setBank_bank] at hy
      split at hy
      · obtain hy | hy := mem_memWrite hy
        · exact h.bankWords y hy
        · rwa [List.mem_singleton.mp hy]
      · exact h.bankWords y hy }

/-- `BUILD` on a bank of 2048 distinct words establishes R31(c). -/
theorem build (h : Inv s) (hsize : s.bcnt = 2048) (hdistinct : s.bank.Nodup) :
    Inv (setReady true (setIdx (indexOf s.bank) s)) :=
  { h with
    whenReady := fun _ => ⟨hsize, hdistinct, rfl⟩
    whenNotReady := by simp
    reserved := reserved_setBit _ 0 true (by decide) h.reserved
    errCode := by simpa using h.errCode
    fatalReady := by simp }

/-! ## The invariant and the failures -/

theorem getElem?_bankSlot (h : Inv s) (hready : ready s = true) (d : Digit) :
    s.bank[d.toNat]? = some (bankSlot s d) := by
  obtain ⟨-, -, hlen⟩ := (memory_wf_iff s).mp h.memory
  obtain ⟨hsize, -, -⟩ := h.whenReady hready
  have hd : d.toNat < s.bank.length := by
    have hlt := d.isLt
    rw [hlen, hsize]
    simpa using hlt
  have hget := List.getElem?_eq_getElem hd
  rw [hget, bankSlot_of_getElem? hget]

/-- In a constructed codec the word of a slot indexes back to its digit, so `WGET`'s sanity check passes (R25, R80). -/
theorem lookup_bankSlot (h : Inv s) (hready : ready s = true) (d : Digit) :
    lookup s.idx (bankSlot s d) = some d := by
  obtain ⟨-, -, hlen⟩ := (memory_wf_iff s).mp h.memory
  obtain ⟨-, hdistinct, hidx⟩ := h.whenReady hready
  rw [hidx]
  exact (lookup_indexOf (by omega) hdistinct).mpr (h.getElem?_bankSlot hready d)

/-- Under the invariant `WGET` never fails with `Fatal`, hence no command does (R25, R144). -/
theorem failSetsFatal_eq_false (h : Inv s) {i : Instr} {f : Failure} (hf : Fails i s f) : failSetsFatal f = false := by
  by_contra hset
  rw [Bool.not_eq_false] at hset
  obtain ⟨j, rfl⟩ := hf.wget_of_failSetsFatal hset
  obtain hp | ⟨hp, hr⟩ := hf
  · rw [prologue_failSetsFatal hp] at hset
    exact absurd hset (by decide)
  · obtain ⟨-, -, hneeds, -⟩ := prologue_eq_none.mp hp
    simp only [ruleOf, wgetRule, h.lookup_bankSlot (hneeds rfl), if_true] at hr
    split at hr
    · injection hr with hr
      rw [← hr] at hset
      exact Bool.noConfusion hset
    · exact absurd hr (by simp [respondWord])

end Inv

theorem prologue_failWord {i : Instr} {s : State} {f : Failure} (h : prologue i s = some f) : failWord f = [] := by
  obtain ⟨rfl, -, -⟩ | ⟨b, rfl, -⟩ | ⟨rfl, -, -⟩ | ⟨rfl, -, -⟩ := prologue_eq_some h <;> rfl

/-- Where the word of a rule's failure comes from: a duplicate in the bank, an operand without an entry, or `WGET`'s sanity
check; every other failure has no word (R131). -/
theorem ruleOf_error_failWord {i : Instr} {s : State} {f : Failure} (h : ruleOf i s = .error f) :
    failWord f = [] ∨ failWord f ∈ s.bank ∨ i = .lookup (failWord f) ∨ i = .wpush (failWord f) ∨
      failSetsFatal f = true := by
  cases i <;> simp only [ruleOf, nopRule, clearRule, rdregRule, clrerrRule, rderrwRule, bankpushRule, buildRule,
    lookupRule, bankrdRule, bclrRule, bpushRule, brdRule, dclrRule, dpushRule, drdRule, wpushRule, wgetRule, wlenRule,
    blenRule, drop1Rule, b2dRule, d2bRule, csappRule, csverRule, encodeRule, decodeRule, respond, respondWord] at h
  case build =>
    split at h
    · cases h; exact .inl rfl
    · split at h
      · next x j i hd =>
        cases h
        obtain ⟨-, -, hget, -⟩ := firstDuplicate_some hd
        exact .inr (.inl (List.mem_of_getElem? hget))
      · cases h
  case lookup x =>
    split at h
    · cases h
    · cases h; exact .inr (.inr (.inl rfl))
  case wpush x =>
    split at h
    · cases h; exact .inr (.inr (.inr (.inl rfl)))
    · split at h <;> cases h
      exact .inl rfl
  case wget j =>
    split at h
    · cases h; exact .inl rfl
    · split at h <;> cases h
      exact .inr (.inr (.inr (.inr rfl)))
  all_goals (repeat' split at h)
  all_goals cases h
  all_goals exact .inl rfl

namespace Inv

variable {s : State}

/-- ERRWORD never gets a word longer than WMAX (R31(e)): it comes from the bank, or passed the operand check of R59. -/
theorem failWord_length_le (h : Inv s) {i : Instr} {f : Failure} (hf : Fails i s f) :
    (failWord f).length ≤ s.wmax := by
  have hset := h.failSetsFatal_eq_false hf
  obtain hp | ⟨hp, hr⟩ := hf
  · rw [prologue_failWord hp]
    exact Nat.zero_le _
  · obtain ⟨-, hwf, -, -⟩ := prologue_eq_none.mp hp
    obtain hw | hw | hw | hw | hw := ruleOf_error_failWord hr
    · rw [hw]
      exact Nat.zero_le _
    · exact h.bankWords _ hw
    · rw [hw] at hwf
      exact of_decide_eq_true hwf
    · rw [hw] at hwf
      exact of_decide_eq_true hwf
    · rw [hset] at hw
      exact absurd hw (by decide)

/-- Taking a failure other than `Fatal` keeps the invariant, if its word fits. -/
theorem after_raise (h : Inv s) {f : Failure} (hset : failSetsFatal f = false) (hx : (failWord f).length ≤ s.wmax) :
    Inv (raise f s) := by
  cases hfatal : fatal s with
  | true =>
    rw [raise_of_fatal f hfatal]
    exact h.pushResponse (failResponse f)
  | false =>
    rw [raise_eq_failed f hfatal hset]
    exact (h.setLatches (failInfo f) (failAux f) (failCode_le f) hx).pushResponse (failResponse f)

/-- The writes of a command behind the prologue keep the invariant. -/
theorem after_writes (h : Inv s) {i : Instr} {u : State} (hp : prologue i s = none) (hw : Writes s i u) : Inv u := by
  obtain ⟨-, hwf, -, hsealed⟩ := prologue_eq_none.mp hp
  cases hw with
  | nothing => exact h
  | clear => exact h.clearAll
  | clrerr => exact h.setLatches 0 0 (by decide) (Nat.zero_le _)
  | bankpush x => exact h.bankpush (of_decide_eq_true hwf) (hsealed rfl)
  | build size distinct => exact h.build size distinct
  | buf _ fits => exact h.setBuf fits
  | dig _ fits => exact h.setDig fits
  | encode bufFits digFits => exact (h.setBuf fun _ => bufFits).setDig fun _ => digFits
  | d2b flexible fits => exact (h.setBuf fun _ => fits).setFlex flexible
  | decode flexible again fits => exact ((h.setBuf fun _ => fits).setFlex flexible).setRetried again

/-- Every command keeps the invariant (R31). -/
theorem after_exec (h : Inv s) {i : Instr} {t : State} (ht : exec i s = .next t) : Inv t := by
  obtain ⟨f, hf, rfl⟩ | ⟨r, u, hp, hw, -, rfl⟩ := exec_outcome ht
  · exact h.after_raise (h.failSetsFatal_eq_false hf) (h.failWord_length_le hf)
  · exact (h.after_writes hp hw).pushResponse r

/-- Under the invariant no command changes FATAL (R25). -/
theorem fatal_exec (h : Inv s) {i : Instr} {t : State} (ht : exec i s = .next t) : fatal t = fatal s := by
  obtain hkeep | ⟨j, f, -, hf, hset, -⟩ := exec_fatal ht
  · exact hkeep
  · rw [h.failSetsFatal_eq_false hf] at hset
    exact absurd hset (by decide)

end Inv

/-! ## The obligations -/

/-- Settles O7: `step` takes the first packet of the program and `stepPacket` decodes it. -/
theorem stepRunsTheDecodedCommand : Obligations.StepRunsTheDecodedCommand :=
  fun _ _ _ _ hp hd => (step_of_program hp).trans (stepPacket_of_decode_ok _ hd)

/-- Settles O11: the bounds of R7 are in the types of the parameters, and everything else is 0 or empty. -/
theorem resetMeetsTheInvariant : Obligations.ResetMeetsTheInvariant := inv_reset

/-- Settles O12: taking the packet, every command and `IllegalCommand` keep the invariant. -/
theorem stepKeepsTheInvariant : Obligations.StepKeepsTheInvariant := by
  intro s t h hstep
  obtain rfl | ⟨rest, i, ht⟩ | ⟨rest, hdr, n, rfl⟩ := step_cases hstep
  · exact h
  · exact (h.setProgram rest).after_exec ht
  · exact (h.setProgram rest).after_raise rfl (Nat.zero_le _)

/-- Settles O13: under the invariant `WGET`'s sanity check, the one way to set FATAL, cannot fail. -/
theorem fatalIsNeverSet : Obligations.FatalIsNeverSet := by
  intro s t h hfatal hstep
  obtain rfl | ⟨rest, i, ht⟩ | ⟨rest, hdr, n, rfl⟩ := step_cases hstep
  · exact hfatal
  · exact ((h.setProgram rest).fatal_exec ht).trans hfatal
  · simp [fatal_raise, hfatal, failSetsFatal]

/-- Settles O14: neither the writes of a command nor a failure touch the parameters. -/
theorem parametersNeverChange : Obligations.ParametersNeverChange := by
  intro s t hstep
  obtain rfl | ⟨rest, i, ht⟩ | ⟨rest, hdr, n, rfl⟩ := step_cases hstep
  · exact ⟨rfl, rfl, rfl, rfl⟩
  · exact exec_params (s := setProgram rest s) ht
  · exact raise_params _ (setProgram rest s)

/-- Settles O15: the code and the value of a failing response are those that `raise` latches, and a success answers with
`err = 0`, which no failure does. -/
theorem latchesDescribeTheLastFailure : Obligations.LatchesDescribeTheLastFailure := by
  intro i s t r ht hr
  obtain ⟨f, -, rfl⟩ | ⟨r', u, -, hw, herr, rfl⟩ := exec_outcome ht
  · obtain rfl : failResponse f = r := by simpa using hr
    refine ⟨fun hfatal _ => ?_, fun h0 => absurd h0 (failCode_ne_zero f)⟩
    obtain ⟨hcode, hinfo, -, -⟩ := raise_latches f hfatal
    exact ⟨hcode, hinfo, rfl⟩
  · obtain rfl : r' = r := by simpa [hw.responses] using hr
    exact ⟨fun _ hne => absurd herr hne, fun _ => hw.latches⟩

/-- Settles O20: while READY = 1 the prologue stops `BANKPUSH` and `BUILD`, and no other command but `CLEAR` writes. -/
theorem bankAndIndexWriters : Obligations.BankAndIndexWriters := by
  intro i s t ht
  have hbank := exec_bank ht
  have hindex := exec_index ht
  refine ⟨fun hne => ?_, fun hne => ?_, fun hready hclear => ?_⟩
  · obtain ⟨hb, hc⟩ | rfl | ⟨hx, -⟩ := hbank
    · exact absurd hne (by simp [hb, hc])
    · exact .inl rfl
    · exact .inr hx
  · obtain ⟨hi, hr⟩ | rfl | ⟨rfl, -⟩ := hindex
    · exact absurd hne (by simp [hi, hr])
    · exact .inl rfl
    · exact .inr rfl
  · obtain ⟨hb, hc⟩ : t.bank = s.bank ∧ t.bcnt = s.bcnt := by simpa [hclear, hready] using hbank
    obtain ⟨hi, hr⟩ : t.idx = s.idx ∧ ready t = ready s := by simpa [hclear, hready] using hindex
    exact ⟨hb, hc, hi, hr.trans hready⟩

/-- Settles O21: the families of the writes of BUF and of DIG, a failure writing neither. -/
theorem workingArrayWriters : Obligations.WorkingArrayWriters :=
  fun _ _ _ ht => ⟨(exec_buf ht).resolve_left, (exec_dig ht).resolve_left⟩

/-- Settles O22: the families of the writes of the flags, a failure writing none but FATAL. -/
theorem flagWriters : Obligations.FlagWriters := by
  intro i s t ht
  refine ⟨fun hne => ?_, fun hne => ?_, (exec_flex ht).resolve_left, (exec_retried ht).resolve_left⟩
  · obtain ⟨-, hkeep⟩ | rfl | ⟨rfl, -⟩ := exec_index ht
    · exact absurd hkeep hne
    · exact .inr rfl
    · exact .inl rfl
  · obtain hkeep | ⟨j, f, rfl, -, -, hset⟩ := exec_fatal ht
    · exact absurd hkeep hne
    · exact ⟨hset, j, rfl⟩

end Sys2Proof.Machine

/-! # The memory family: the reads write nothing -/

namespace Sys2Proof.Machine

/-- The commands that may write anything at all when they succeed; the reads of R44 are not among them. -/
theorem Writes.eq_or_writer {i : Instr} {s u : State} (h : Writes s i u) :
    u = s ∨ (∃ x, i = .bankpush x) ∨ (∃ b, i = .bpush b) ∨ (∃ d, i = .dpush d) ∨ (∃ x, i = .wpush x) ∨
      i ∈ [.clear, .clrerr, .build, .bclr, .drop1, .csapp, .csver, .dclr, .b2d, .encode, .d2b, .decode] := by
  cases h with
  | nothing => exact .inl rfl
  | bankpush x => exact .inr (.inl ⟨x, rfl⟩)
  | buf writer _ =>
    obtain ⟨c, rfl⟩ | hmem := writer
    · exact .inr (.inr (.inl ⟨c, rfl⟩))
    · simp only [List.mem_cons, List.not_mem_nil, or_false] at hmem
      rcases hmem with rfl | rfl | rfl | rfl <;> simp
  | dig writer _ =>
    obtain ⟨z, rfl⟩ | ⟨x, rfl⟩ | hmem := writer
    · exact .inr (.inr (.inr (.inl ⟨z, rfl⟩)))
    · exact .inr (.inr (.inr (.inr (.inl ⟨x, rfl⟩))))
    · simp only [List.mem_cons, List.not_mem_nil, or_false] at hmem
      rcases hmem with rfl | rfl <;> simp
  | clear | clrerr | build | encode | d2b | decode => simp

/-- Settles O23: an answer with `err = 0` is no failure, and no read is among the writers. -/
theorem readsHaveNoSideEffect : Obligations.ReadsHaveNoSideEffect := by
  intro i s t r hread ht hr herr
  obtain ⟨f, -, rfl⟩ | ⟨r', u, -, hw, -, rfl⟩ := exec_outcome ht
  · obtain rfl : failResponse f = r := by simpa using hr
    exact absurd herr (failCode_ne_zero f)
  · have hkeep : u = s := by
      have hwriter := hw.eq_or_writer
      rcases hread with ⟨n, rfl⟩ | rfl | ⟨a, rfl⟩ | ⟨j, rfl⟩ | ⟨d, rfl⟩ | ⟨x, rfl⟩ | ⟨n, rfl⟩ | ⟨w, rfl⟩ | ⟨j, rfl⟩ <;>
        simpa using hwriter
    subst hkeep
    rfl

end Sys2Proof.Machine

/-! # The encoding family: the opcode table, the decoder and the packet port -/

namespace Sys2Proof

/-! ## The shape of a command (R53, R54) -/

/-- The format of a command (R53, R55). -/
def formatOf : Instr → Format
  | .bankpush _ | .lookup _ | .wpush _ => .w
  | .rdreg _ | .bankrd _ | .bpush _ | .brd _ | .dpush _ | .drd _ | .wget _ | .wlen _ | .blen _ => .i
  | _ => .n

/-- The width of a command's format-I operand (R54); formats N and W have none. -/
def operandBits : Instr → Nat
  | .bpush _ => 8
  | .bankrd _ | .dpush _ => 11
  | .rdreg _ | .brd _ | .drd _ | .wget _ | .wlen _ | .blen _ => 24
  | _ => 0

/-- The command of the same table row whose operand is read from the immediate `m` or the payload `x` (R53, R54). -/
def withOperand (m : Imm) (x : Word) : Instr → Instr
  | .rdreg _ => .rdreg m
  | .bankpush _ => .bankpush x
  | .lookup _ => .lookup x
  | .bankrd _ => .bankrd (m.setWidth 11)
  | .bpush _ => .bpush (m.setWidth 8)
  | .brd _ => .brd m
  | .dpush _ => .dpush (m.setWidth 11)
  | .drd _ => .drd m
  | .wpush _ => .wpush x
  | .wget _ => .wget m
  | .wlen _ => .wlen m
  | .blen _ => .blen m
  | i => i

/-- One command of each row of the opcode table, in the order of the table, with a zero or empty operand. -/
def tableCommands : List Instr :=
  [.nop, .clear, .rdreg 0, .clrerr, .rderrw, .bankpush [], .build, .lookup [], .bankrd 0, .bclr, .bpush 0, .brd 0, .dclr,
   .dpush 0, .drd 0, .wpush [], .wget 0, .wlen 0, .blen 0, .drop1, .b2d, .d2b, .csapp, .csver, .encode, .decode]

/-- No command has an immediate bit above its operand field. -/
theorem immediate_toNat_lt (i : Instr) : (immediate i).toNat < 2 ^ operandBits i := by
  cases i with
  | bpush v | bankrd v | dpush v =>
    have hlt := v.isLt
    simp [immediate, operandBits]
    omega
  | rdreg v | brd v | drd v | wget v | wlen v | blen v => exact v.isLt
  | _ => exact Nat.one_pos

theorem payloadOf_eq_nil (i : Instr) : formatOf i = .w ∨ payloadOf i = [] := by
  cases i <;> simp [formatOf, payloadOf]

/-- A command is determined by its table row, its immediate and its payload. -/
theorem withOperand_self (i : Instr) : withOperand (immediate i) (payloadOf i) i = i := by
  cases i <;> simp [withOperand, immediate, payloadOf]

@[simp] theorem opcode_withOperand (m : Imm) (x : Word) (i : Instr) : opcode (withOperand m x i) = opcode i := by
  cases i <;> rfl

/-- An immediate with no bit above the operand field is the immediate of the command that is read from it. -/
theorem immediate_withOperand {m : Imm} (x : Word) {i : Instr} (h : m.toNat < 2 ^ operandBits i) :
    immediate (withOperand m x i) = m := by
  apply BitVec.eq_of_toNat_eq
  cases i <;> simp [operandBits, withOperand, immediate] at h ⊢ <;> omega

theorem payloadOf_withOperand (m : Imm) {x : Word} {i : Instr} (h : formatOf i = .w ∨ x = []) :
    payloadOf (withOperand m x i) = x := by
  cases i <;> simp_all [formatOf, withOperand, payloadOf]

/-! ## What decode answers -/

/-- A packet with the opcode of `i` decodes when its immediate and its payload meet the conditions of R56(b) to (d) for
the format of `i`, and then to the command with the operand that they carry. -/
theorem decode_eq_ok_iff {p : Packet} {i j : Instr} (hop : opField p.hdr = opcode i) :
    decode p = .ok j ↔
      (immField p.hdr).toNat < 2 ^ operandBits i ∧ (formatOf i = .w ∨ p.payload = []) ∧
        withOperand (immField p.hdr) p.payload i = j := by
  cases i <;>
    simp [decode, hop, opcode, decodeN_ok, decodeI_ok, decodeW_ok, operandBits, formatOf, withOperand,
      ← BitVec.toNat_inj]

theorem decodeN_ne_unassigned (p : Packet) (i : Instr) : decodeN p i ≠ .error .unassignedOpcode := by
  unfold decodeN
  split
  · simp
  · split <;> simp

theorem decodeI_ne_unassigned {k : Nat} (p : Packet) (f : BitVec k → Instr) :
    decodeI k p f ≠ .error .unassignedOpcode := by
  unfold decodeI
  split
  · simp
  · split <;> simp

theorem decodeW_ne_unassigned (p : Packet) (f : Word → Instr) : decodeW p f ≠ .error .unassignedOpcode := by
  unfold decodeW
  split <;> simp

/-- Under the opcode of a command the only rejections are those of its format. -/
theorem decode_ne_unassigned {p : Packet} {i : Instr} (hop : opField p.hdr = opcode i) :
    decode p ≠ .error .unassignedOpcode := by
  cases i <;> simp [decode, hop, opcode, decodeN_ne_unassigned, decodeI_ne_unassigned, decodeW_ne_unassigned]

/-- A packet is rejected for its opcode exactly when no row of the table has that opcode (R56(a), R57). -/
theorem decode_eq_unassigned_iff {p : Packet} :
    decode p = .error .unassignedOpcode ↔ ∀ i ∈ tableCommands, opField p.hdr ≠ opcode i := by
  refine ⟨fun h i _ hop => decode_ne_unassigned hop h, fun hno => ?_⟩
  have hnum : ∀ n ∈ tableCommands.map fun i => (opcode i).toNat, (opField p.hdr).toNat ≠ n :=
    List.forall_mem_map.mpr fun i hi hop => hno i hi (BitVec.eq_of_toNat_eq hop)
  unfold decode
  split
  case h_27 => rfl
  all_goals next hop => exact absurd hop (hnum _ (by decide))

theorem exists_opcode_of_decode_ok {p : Packet} {j : Instr} (h : decode p = .ok j) :
    ∃ i ∈ tableCommands, opField p.hdr = opcode i := by
  by_contra! hno
  rw [decode_eq_unassigned_iff.mpr hno] at h
  cases h

/-! ## The rows of the table (R64) -/

/-- The row of the opcode table that a command's packet matches, computed from the opcode, the operand width and the
format. -/
def rowOf (i : Instr) : OpcodeRow :=
  ⟨opcode i ++ (0 : Imm), (0xFF : BitVec 8) ++ (BitVec.allOnes 24 <<< operandBits i), formatOf i⟩

/-- The opcode table is the list of the rows so computed. -/
theorem map_rowOf_tableCommands : tableCommands.map rowOf = opcodeTable := by decide

theorem mem_opcodeTable {row : OpcodeRow} : row ∈ opcodeTable ↔ ∃ i ∈ tableCommands, rowOf i = row := by
  rw [← map_rowOf_tableCommands, List.mem_map]

/-- The opcodes of the table are distinct (R64). -/
theorem nodup_opcode_tableCommands : (tableCommands.map opcode).Nodup := by decide

/-- The bits of an immediate above the low `k` are 0 exactly when it is below `2 ^ k`. -/
theorem and_allOnes_shiftLeft_eq_zero (k : Nat) (m : Imm) :
    m &&& (BitVec.allOnes 24 <<< k) = 0 ↔ m.toNat < 2 ^ k := by
  have hpos : 0 < 2 ^ k := Nat.two_pow_pos k
  have hle : m.toNat / 2 ^ k * 2 ^ k < 2 ^ 24 := (Nat.div_mul_le_self _ _).trans_lt m.isLt
  rw [← BitVec.shiftLeft_ushiftRight, ← BitVec.toNat_inj, BitVec.toNat_shiftLeft, BitVec.toNat_ushiftRight,
    Nat.shiftLeft_eq, Nat.shiftRight_eq_div_pow, Nat.mod_eq_of_lt hle]
  simp [Nat.div_eq_zero_iff_lt hpos]

theorem opField_append (op : BitVec 8) (m : Imm) : opField (op ++ m) = op := BitVec.extractLsb'_append_eq_left

theorem immField_append (op : BitVec 8) (m : Imm) : immField (op ++ m) = m := BitVec.extractLsb'_append_eq_right

theorem opField_append_immField (h : Reg) : opField h ++ immField h = h :=
  header_ext (opField_append _ _) (immField_append _ _)

/-- A header agrees with an opcode under a mask that keeps the whole opcode: the opcode is the same and the masked
immediate is 0. -/
theorem and_mask_eq_iff (h : Reg) (op : BitVec 8) (m : Imm) :
    h &&& ((0xFF : BitVec 8) ++ m) = op ++ (0 : Imm) ↔ opField h = op ∧ immField h &&& m = 0 := by
  rw [← opField_append_immField h, BitVec.and_append, opField_append, immField_append]
  constructor
  · intro heq
    have hop := congrArg opField heq
    have himm := congrArg immField heq
    rw [opField_append, opField_append] at hop
    rw [immField_append, immField_append] at himm
    exact ⟨(BitVec.and_allOnes).symm.trans hop, himm⟩
  · rintro ⟨rfl, himm⟩
    rw [himm]
    congr 1
    exact BitVec.and_allOnes

theorem OpcodeRow.matches_iff {row : OpcodeRow} {p : Packet} :
    row.matches p = true ↔ p.hdr &&& row.mask = row.value ∧ (row.format = .w ∨ p.payload = []) := by
  simp [OpcodeRow.matches]

/-- A packet matches the row of `i` exactly when it has the opcode of `i` and meets the conditions of R56(b) to (d). -/
theorem matches_rowOf_iff {p : Packet} {i : Instr} :
    (rowOf i).matches p = true ↔
      opField p.hdr = opcode i ∧ (immField p.hdr).toNat < 2 ^ operandBits i ∧ (formatOf i = .w ∨ p.payload = []) := by
  rw [OpcodeRow.matches_iff, rowOf, and_mask_eq_iff, and_allOnes_shiftLeft_eq_zero, and_assoc]

/-! ## The obligations on the decoder -/

/-- Settles O1: a command's own immediate and payload meet the conditions of its format, and carry its operand. -/
theorem decodeInvertsEncode : Obligations.DecodeInvertsEncode := by
  intro i
  rw [decode_eq_ok_iff (p := encode i) (opField_header i)]
  simp only [encode, immField_header]
  exact ⟨immediate_toNat_lt i, payloadOf_eq_nil i, withOperand_self i⟩

/-- Settles O2: the command that a packet decodes to has the packet's opcode, immediate and payload. -/
theorem legalPacketIsItsCommandsPacket : Obligations.LegalPacketIsItsCommandsPacket := by
  intro p j h
  obtain ⟨i, -, hop⟩ := exists_opcode_of_decode_ok h
  obtain ⟨himm, hpay, rfl⟩ := (decode_eq_ok_iff hop).mp h
  have hhdr : header (withOperand (immField p.hdr) p.payload i) = p.hdr :=
    header_ext (by rw [opField_header, opcode_withOperand, hop])
      (by rw [immField_header, immediate_withOperand _ himm])
  rw [encode, hhdr, payloadOf_withOperand _ hpay]

/-- Settles O3: decoding under the opcode of a row asks for the row's own conditions, and the opcodes are distinct. -/
theorem legalPacketsAreTheTableRows : Obligations.LegalPacketsAreTheTableRows := by
  intro p
  refine ⟨⟨?_, ?_⟩, ?_⟩
  · rintro ⟨j, h⟩
    obtain ⟨i, hi, hop⟩ := exists_opcode_of_decode_ok h
    obtain ⟨himm, hpay, -⟩ := (decode_eq_ok_iff hop).mp h
    exact ⟨rowOf i, mem_opcodeTable.mpr ⟨i, hi, rfl⟩, matches_rowOf_iff.mpr ⟨hop, himm, hpay⟩⟩
  · rintro ⟨row, hrow, hmatch⟩
    obtain ⟨i, -, rfl⟩ := mem_opcodeTable.mp hrow
    obtain ⟨hop, himm, hpay⟩ := matches_rowOf_iff.mp hmatch
    exact ⟨_, (decode_eq_ok_iff hop).mpr ⟨himm, hpay, rfl⟩⟩
  · intro row hrow row' hrow' hmatch hmatch'
    obtain ⟨i, hi, rfl⟩ := mem_opcodeTable.mp hrow
    obtain ⟨j, hj, rfl⟩ := mem_opcodeTable.mp hrow'
    obtain ⟨hop, -, -⟩ := matches_rowOf_iff.mp hmatch
    obtain ⟨hop', -, -⟩ := matches_rowOf_iff.mp hmatch'
    rw [List.inj_on_of_nodup_map nodup_opcode_tableCommands hi hj (hop.symm.trans hop')]

/-- Settles O4: the ranges of R57 are the numbers below 256 that no row of the table has as its opcode. -/
theorem unassignedOpcodesAreThe230Listed : Obligations.UnassignedOpcodesAreThe230Listed := by
  intro p
  have hlt : p.hdr.toNat < 2 ^ 32 := p.hdr.isLt
  rw [decode_eq_unassigned_iff]
  simp [tableCommands, opcode, ← BitVec.toNat_inj, opField_toNat]
  omega

/-- Settles O5: each packet is evaluated. -/
theorem writtenOutPacketsDecode : Obligations.WrittenOutPacketsDecode :=
  ⟨rfl, rfl, rfl, rfl, rfl, rfl, rfl, rfl, rfl, rfl, rfl, rfl, rfl⟩

/-! ## The byte-serial form (R39, R52, R60) -/

theorem packetOfBytes_wordBytes_append (v : Reg) (x : List Byte) : packetOfBytes (wordBytes v ++ x) = some ⟨v, x⟩ := by
  have hv : v.extractLsb' 24 8 ++ v.extractLsb' 16 8 ++ v.extractLsb' 8 8 ++ v.extractLsb' 0 8 = v := by
    have hhalf : v.extractLsb' 24 8 ++ v.extractLsb' 16 8 = v.extractLsb' 16 16 :=
      BitVec.extractLsb'_append_extractLsb'_eq_extractLsb' rfl
    have hupper : v.extractLsb' 16 16 ++ v.extractLsb' 8 8 = v.extractLsb' 8 24 :=
      BitVec.extractLsb'_append_extractLsb'_eq_extractLsb' rfl
    rw [hhalf, hupper]
    exact BitVec.extractLsb'_append_extractLsb'
  simp [wordBytes, packetOfBytes, hv]

/-- The first byte of a register is the quotient itself, since a register is below `2 ^ 32`. -/
theorem wordBytes_toNat_of_isLt (v : Reg) :
    (wordBytes v).map BitVec.toNat =
      [v.toNat / 2 ^ 24, v.toNat / 2 ^ 16 % 256, v.toNat / 2 ^ 8 % 256, v.toNat % 256] := by
  have hv : v.toNat / 2 ^ 24 < 256 := Nat.div_lt_of_lt_mul v.isLt
  rw [wordBytes_toNat, Nat.mod_eq_of_lt hv]

/-- Settles O6: a header's four bytes are its base-256 digits, and put together again they are the header. -/
theorem serialPacketReadsBack : Obligations.SerialPacketReadsBack := by
  refine ⟨fun p => ⟨packetOfBytes_wordBytes_append p.hdr p.payload, ?_⟩, fun r => ?_⟩
  · rw [packetBytes, List.map_append, wordBytes_toNat_of_isLt]
  · rw [responseBytes, List.map_append, List.map_cons, wordBytes_toNat_of_isLt, List.cons_append]

end Sys2Proof

namespace Sys2Proof.Machine

/-! ## The packet port (R15, R60, R146) -/

theorem Writes.program {i : Instr} {s u : State} (h : Writes s i u) : u.program = s.program := by cases h <;> rfl

/-- Every command gives exactly one response and takes no further packet. -/
theorem exec_port {i : Instr} {s t : State} (h : exec i s = .next t) :
    t.program = s.program ∧ ∃ r, t.responses = s.responses ++ [r] := by
  obtain ⟨f, -, rfl⟩ | ⟨r, u, -, hw, -, rfl⟩ := exec_outcome h
  · exact ⟨raise_program f s, failResponse f, raise_responses f s⟩
  · exact ⟨hw.program, r, by rw [pushResponse_responses, hw.responses]⟩

/-- Settles O9: a legal packet is answered by its command, an illegal one by `IllegalCommand`. -/
theorem everyPacketIsAnsweredOnce : Obligations.EveryPacketIsAnsweredOnce := by
  refine fun s => ⟨fun p rest hp => ?_, fun hp => by rw [step, hp]⟩
  rw [step_of_program hp]
  cases hd : Sys2Proof.decode p with
  | ok i =>
    obtain ⟨t, ht⟩ := exec_next i (setProgram rest s)
    obtain ⟨hprogram, r, hr⟩ := exec_port ht
    exact ⟨t, r, (stepPacket_of_decode_ok _ hd).trans ht, hprogram, hr⟩
  | error e => exact ⟨_, _, stepPacket_of_decode_error _ hd, raise_program _ _, raise_responses _ _⟩

/-! ## The static operand checks (R59, R137, R141) -/

/-- With FATAL = 0 an operand outside its static range fails with `RangeError`, whatever READY is (R141 step 3). -/
theorem exec_of_staticBound {i : Instr} {s : State} {b : Nat} (hfatal : fatal s = false)
    (hb : staticBound s.wmax i = some b) :
    exec i s = .next (failed s 6 (header i) (BitVec.ofNat 32 b) []) := by
  have hp : prologue i s = some (.rangeError (header i) b) := by simp [prologue, hfatal, hb]
  rw [exec_of_prologue hp, raise_eq_failed _ hfatal rfl]
  rfl

/-- Settles O19: the three word operands and the register number break their static bounds. -/
theorem staticRangeErrorsComeFirst : Obligations.StaticRangeErrorsComeFirst := by
  intro s hfatal
  refine ⟨fun x hx => ?_, fun r hr => ?_⟩
  · have hb : wordBound s.wmax x = some (s.wmax + 1) := if_pos hx
    exact ⟨by simpa using exec_of_staticBound (i := .bankpush x) hfatal hb,
      by simpa using exec_of_staticBound (i := .lookup x) hfatal hb,
      by simpa using exec_of_staticBound (i := .wpush x) hfatal hb⟩
  · simpa using exec_of_staticBound (i := .rdreg r) hfatal (if_pos hr)

end Sys2Proof.Machine

/-! # The system family: the commands that need no codec -/

namespace Sys2Proof.Machine

section
variable {i : Instr} {s : State}

/-- A command that runs in every lifecycle state passes its prologue as soon as its operands are in range (R55). -/
theorem prologue_eq_none_of_anyFatal (hneeds : needs i = .anyFatal) (hwf : i.wellFormed s.wmax = true) :
    prologue i s = none :=
  prologue_eq_none.mpr ⟨fun _ => hneeds, hwf, by simp [hneeds], by simp [hneeds]⟩

/-- A command that needs FATAL = 0 alone passes its prologue there as soon as its operands are in range (R55). -/
theorem prologue_eq_none_of_any (hneeds : needs i = .any) (hfatal : fatal s = false)
    (hwf : i.wellFormed s.wmax = true) : prologue i s = none :=
  prologue_eq_none.mpr ⟨by simp [hfatal], hwf, by simp [hneeds], by simp [hneeds]⟩

/-- A command that passes its prologue and whose rule succeeds, its next state written with `answered`. -/
theorem exec_eq_answered {u : State} {val : Reg} {x : Option Word} (hp : prologue i s = none)
    (hr : ruleOf i s = .ok ⟨u, val, x⟩) : exec i s = .next (answered u val x) :=
  exec_of_ok hp hr

end

/-- The register map of R29: what `RDREG` reads under each of its eleven numbers. -/
theorem map_readReg_range (s : State) :
    (List.range 11).map (readReg s) =
      [0x08000B08, s.status &&& 0x0000FF0F, s.errinfo, s.erraux, BitVec.ofNat 32 s.buf.length,
       BitVec.ofNat 32 s.dig.length, s.bcnt, BitVec.ofNat 32 s.bufCap, BitVec.ofNat 32 s.digCap,
       BitVec.ofNat 32 s.wmax, BitVec.ofNat 32 s.csw] := rfl

/-- With its number in range `RDREG` answers the register, in every lifecycle state (R68). -/
theorem exec_rdreg {r : BitVec 24} (s : State) (hr : r.toNat < 11) :
    exec (.rdreg r) s = .next (answered s (readReg s r.toNat) none) :=
  exec_eq_answered (prologue_eq_none_of_anyFatal rfl (decide_eq_true (Nat.le_of_lt_succ hr))) rfl

/-- Settles O25: none of the three commands needs FATAL = 0, and an entry of the register map has a number below 11. -/
theorem nopAndRegisterReadsInEveryState : Obligations.NopAndRegisterReadsInEveryState := by
  refine fun s => ⟨exec_eq_answered (prologue_eq_none_of_anyFatal rfl rfl) rfl,
    exec_eq_answered (prologue_eq_none_of_anyFatal rfl rfl) rfl, fun r v hv => ?_⟩
  rw [← map_readReg_range] at hv
  obtain ⟨hr, rfl⟩ : r.toNat < 11 ∧ readReg s r.toNat = v := by
    simpa [List.getElem?_eq_some_iff] using hv
  exact exec_rdreg s hr

/-- Writing the error latches touches no array, no counter and no flag but ERR (R28). -/
theorem setLatches_keepsWork (e : BitVec 8) (info aux : Reg) (x : Word) (s : State) :
    KeepsWork s (setLatches e info aux x s) := by
  constructor <;> simp

theorem KeepsWork.answered {s t : State} (h : KeepsWork s t) (val : Reg) (x : Option Word) :
    KeepsWork s (answered t val x) := { h with }

/-- With FATAL = 0 `CLRERR` writes the four latches with zeros and answers 0 (R69). -/
theorem exec_clrerr {s : State} (hfatal : fatal s = false) :
    exec .clrerr s = .next (answered (setLatches 0 0 0 [] s) 0 none) :=
  exec_eq_answered (prologue_eq_none_of_any rfl hfatal rfl) rfl

/-- Settles O27: `CLRERR` only writes the latches, and of STATUS that is the ERR field alone. -/
theorem clearErrorsClearsTheLatchesOnly : Obligations.ClearErrorsClearsTheLatchesOnly := by
  intro s hfatal
  have hkeeps := (setLatches_keepsWork 0 0 0 [] s).answered 0 none
  have hfatal' := (fatal_setLatches s 0 0 0 []).trans hfatal
  have hstatus (n : Nat) (hn : ¬(8 ≤ n ∧ n < 16)) : (setErrField s.status 0).getLsbD n = s.status.getLsbD n := by
    rw [getLsbD_setErrField, if_neg hn]
  exact ⟨_, exec_clrerr hfatal, err_setLatches s 0 0 0 [], rfl, rfl, rfl, rfl, rfl, hkeeps, hfatal', hstatus⟩

end Sys2Proof.Machine

/-! # The bank family: construction, the two bank reads, and the bank against its index -/

namespace Sys2Proof.Machine

/-! ## The first duplicate (R72) -/

theorem exists_firstDuplicate_of_not_nodup {B : List Word} (h : ¬B.Nodup) :
    ∃ x j i, firstDuplicate [] B = some (x, j, i) := by
  have hne : firstDuplicate [] B ≠ none := fun hn => h ((firstDuplicate_eq_none List.nodup_nil).mp hn)
  obtain ⟨⟨x, j, i⟩, hd⟩ := Option.ne_none_iff_exists'.mp hne
  exact ⟨x, j, i, hd⟩

/-- The search finds the repeated word whose later index is the least, with the least index of the same word. It finds
some pair `j'`, `i'`; neither of `j` and `j'` lies below the other, and then neither of `i` and `i'` does. -/
theorem firstDuplicate_eq_some {B : List Word} {i j : Nat} {x : Word} (hij : i < j) (hi : B[i]? = some x)
    (hj : B[j]? = some x) (hearlier : ∀ a, a < i → B[a]? ≠ some x)
    (hlater : ∀ a b, a < b → b < j → B[a]? ≠ B[b]?) : firstDuplicate [] B = some (x, j, i) := by
  have hjlen : j < B.length := (List.getElem?_eq_some_iff.mp hj).1
  have hnd : ¬B.Nodup := fun hnd =>
    List.nodup_iff_getElem?_ne_getElem?.mp hnd i j hij hjlen (hi.trans hj.symm)
  obtain ⟨x', j', i', hd⟩ := exists_firstDuplicate_of_not_nodup hnd
  obtain ⟨hij', -, hi', hj'⟩ := firstDuplicate_some hd
  obtain ⟨htake, hearlier'⟩ := firstDuplicate_first List.nodup_nil hd
  rw [List.nil_append] at hi' hj' htake hearlier'
  have hle : j ≤ j' := Nat.le_of_not_lt fun hlt => hlater i' j' hij' hlt (hi'.trans hj'.symm)
  have hge : j' ≤ j := Nat.le_of_not_lt fun hlt => by
    have hlen : j < (B.take j').length := by rw [List.length_take]; omega
    have hne := List.nodup_iff_getElem?_ne_getElem?.mp htake i j hij hlen
    rw [List.getElem?_take_of_lt (hij.trans hlt), List.getElem?_take_of_lt hlt] at hne
    exact hne (hi.trans hj.symm)
  obtain rfl : j = j' := Nat.le_antisymm hle hge
  obtain rfl : x = x' := Option.some.inj (hj.symm.trans hj')
  obtain rfl : i = i' := Nat.le_antisymm
    (Nat.le_of_not_lt fun hlt => hearlier i' hlt hi') (Nat.le_of_not_lt fun hlt => hearlier' i hlt hi)
  exact hd

/-! ## Construction as a function (R72) -/

section
variable {B : List Word}

theorem construct_of_length_ne (hl : B.length ≠ 2048) : construct B = .error (.invalidBankSize B.length) := if_pos hl

theorem construct_of_nodup (hl : B.length = 2048) (hnd : B.Nodup) : construct B = .ok (indexOf B) := by
  have hd := (firstDuplicate_eq_none (rest := B) List.nodup_nil).mpr hnd
  simp [construct, hl, hd]

theorem construct_of_firstDuplicate {x : Word} {j i : Nat} (hl : B.length = 2048)
    (hd : firstDuplicate [] B = some (x, j, i)) : construct B = .error (.duplicateWord x j i) := by
  simp [construct, hl, hd]

end

/-- Settles O33: the size is tested first, and the search for a duplicate answers the rest. -/
theorem constructionAcceptsExactlyTheValidBanks : Obligations.ConstructionAcceptsExactlyTheValidBanks := by
  refine fun B => ⟨construct_of_length_ne, construct_of_nodup, ?_, fun hl hnd => ?_⟩
  · intro i j x hl hij hi hj hearlier hlater
    exact construct_of_firstDuplicate hl (firstDuplicate_eq_some hij hi hj hearlier hlater)
  · obtain ⟨x, j, i, hd⟩ := exists_firstDuplicate_of_not_nodup hnd
    exact ⟨x, j, i, construct_of_firstDuplicate hl hd⟩

/-! ## The bank against its index (R80) -/

/-- A digit addresses every slot of a bank, so a word of the bank is one that stands at some digit. -/
theorem mem_bank_iff_exists_digit {B : List Word} {x : Word} (hl : B.length ≤ 2048) :
    x ∈ B ↔ ∃ d : Digit, B[d.toNat]? = some x := by
  refine ⟨fun hx => ?_, fun ⟨_, hd⟩ => List.mem_of_getElem? hd⟩
  obtain ⟨n, hn, hget⟩ := List.mem_iff_getElem.mp hx
  have hdigit : (BitVec.ofNat 11 n).toNat = n := Nat.mod_eq_of_lt (hn.trans_le hl)
  exact ⟨BitVec.ofNat 11 n, by rw [hdigit, List.getElem?_eq_getElem hn, hget]⟩

section
variable {s : State}

/-- With BCNT = 2048 every slot of BANK is written (R32). -/
theorem Inv.length_bank (h : Inv s) (hsize : s.bcnt = 2048) : s.bank.length = 2048 := by
  obtain ⟨-, -, hlen⟩ := (memory_wf_iff s).mp h.memory
  rw [hlen, hsize]
  rfl

theorem Inv.length_bank_of_ready (h : Inv s) (hready : ready s = true) : s.bank.length = 2048 :=
  h.length_bank (h.whenReady hready).1

/-- In a constructed codec the index is the bank read backwards. -/
theorem Inv.lookup_idx_iff (h : Inv s) (hready : ready s = true) {x : Word} {d : Digit} :
    lookup s.idx x = some d ↔ s.bank[d.toNat]? = some x := by
  obtain ⟨-, hdistinct, hidx⟩ := h.whenReady hready
  rw [hidx]
  exact lookup_indexOf (h.length_bank_of_ready hready).le hdistinct

/-- In a constructed codec the words of the bank are the domain of the index. -/
theorem Inv.mem_bank_iff_lookup (h : Inv s) (hready : ready s = true) {x : Word} :
    x ∈ s.bank ↔ ∃ d, lookup s.idx x = some d := by
  simp only [h.lookup_idx_iff hready]
  exact mem_bank_iff_exists_digit (h.length_bank_of_ready hready).le

end

/-- Settles O32: R31(c) makes the index that of the bank, whose words are distinct. -/
theorem bankAndIndexAreInverse : Obligations.BankAndIndexAreInverse :=
  fun _ h hready => ⟨h.length_bank_of_ready hready, fun _ _ => (h.lookup_idx_iff hready).symm,
    fun _ => h.mem_bank_iff_lookup hready⟩

/-! ## The commands of the bank -/

section
variable {i : Instr} {s : State}

/-- A command that needs READY = 0 passes its prologue in lifecycle state UNBUILT as soon as its operands are in range
(R55). -/
theorem prologue_eq_none_of_readyIs0 (hneeds : needs i = .readyIs0) (hfatal : fatal s = false)
    (hready : ready s = false) (hwf : i.wellFormed s.wmax = true) : prologue i s = none :=
  prologue_eq_none.mpr ⟨by simp [hfatal], hwf, by simp [hneeds], fun _ => hready⟩

/-- A command that needs READY = 1 passes its prologue in lifecycle state READY as soon as its operands are in range
(R55). -/
theorem prologue_eq_none_of_readyIs1 (hneeds : needs i = .readyIs1) (hfatal : fatal s = false)
    (hready : ready s = true) (hwf : i.wellFormed s.wmax = true) : prologue i s = none :=
  prologue_eq_none.mpr ⟨by simp [hfatal], hwf, fun _ => hready, by simp [hneeds]⟩

/-- A command that passes its prologue and whose rule fails while FATAL = 0, its next state written with `failed`. -/
theorem exec_eq_failed {f : Failure} (hp : prologue i s = none) (hr : ruleOf i s = .error f) (hfatal : fatal s = false)
    (hset : failSetsFatal f = false) :
    exec i s = .next (failed s (failCode f) (failInfo f) (failAux f) (failWord f)) := by
  rw [exec_of_error hp hr, raise_eq_failed f hfatal hset]

/-! ### BUILD (R76) -/

theorem buildRule_of_size_ne (hsize : s.bcnt ≠ 2048) : buildRule s = .error (.invalidBankSize s.bcnt) := if_pos hsize

theorem buildRule_of_firstDuplicate {x : Word} {j i : Nat} (hsize : s.bcnt = 2048)
    (hd : firstDuplicate [] s.bank = some (x, j, i)) : buildRule s = .error (.duplicateWord j i x) := by
  simp [buildRule, hsize, hd]

theorem buildRule_of_nodup (hsize : s.bcnt = 2048) (hnd : s.bank.Nodup) :
    buildRule s = .ok ⟨setReady true (setIdx (indexOf s.bank) s), 0, none⟩ := by
  have hd := (firstDuplicate_eq_none (rest := s.bank) List.nodup_nil).mpr hnd
  simp [buildRule, hsize, hd, respond]

/-! ### BANKRD and LOOKUP (R77, R78) -/

/-- With FATAL = 0 and READY = 1 `BANKRD` answers the word of its slot. -/
theorem exec_bankrd (hfatal : fatal s = false) (hready : ready s = true) (d : Digit) :
    exec (.bankrd d) s = .next (answered s (BitVec.ofNat 32 (bankSlot s d).length) (some (bankSlot s d))) :=
  exec_eq_answered (prologue_eq_none_of_readyIs1 rfl hfatal hready rfl) rfl

/-- A word that a block can take passes the prologue of `LOOKUP` with FATAL = 0 and READY = 1. -/
theorem prologue_lookup_eq_none (hfatal : fatal s = false) (hready : ready s = true) {x : Word}
    (hx : x.length ≤ s.wmax) : prologue (.lookup x) s = none :=
  prologue_eq_none_of_readyIs1 rfl hfatal hready (decide_eq_true hx)

theorem lookupRule_of_some {x : Word} {d : Digit} (h : lookup s.idx x = some d) :
    lookupRule x s = .ok ⟨s, d.setWidth 32, none⟩ := by
  simp [lookupRule, h, respond]

theorem lookupRule_of_none {x : Word} (h : lookup s.idx x = none) :
    lookupRule x s = .error (.unrecognizedWord 0 x) := by
  simp [lookupRule, h]

/-! ### BANKPUSH (R75) -/

/-- The next free slot is the one at the end of the written ones (R32), so the write of `BANKPUSH` appends. -/
theorem Inv.memWrite_bank (h : Inv s) (x : Word) (hlt : s.bcnt.toNat < 2048) :
    memWrite s.bank s.bcnt.toNat [x] = s.bank ++ [x] := by
  obtain ⟨-, -, hlen⟩ := (memory_wf_iff s).mp h.memory
  have hend : s.bcnt.toNat = s.bank.length := by omega
  rw [hend, memWrite_end]

theorem Inv.bankpushRule_eq (h : Inv s) (x : Word) :
    bankpushRule x s =
      .ok ⟨setBank (if s.bcnt.toNat < 2048 then s.bank ++ [x] else s.bank) (satIncr s.bcnt) s, satIncr s.bcnt, none⟩ := by
  unfold bankpushRule respond
  split
  · next hlt => rw [h.memWrite_bank x hlt]
  · rfl

end

/-- Settles O29: the index built is that of the bank, in which distinct words look up to their slots. -/
theorem buildConstructsTheCodec : Obligations.BuildConstructsTheCodec := by
  intro s h hfatal hready hsize hnd
  refine ⟨setReady true (setIdx (indexOf s.bank) s), ?_, ready_setReady _ _, fun n hn => ?_, rfl, fun x d => ?_⟩
  · exact exec_eq_answered (prologue_eq_none_of_readyIs0 rfl hfatal hready rfl) (buildRule_of_nodup hsize hnd)
  · exact (getLsbD_setBit _ 0 n true (by decide)).trans (if_neg hn)
  · exact lookup_indexOf (h.length_bank hsize).le hnd

/-- Settles O30: the size is tested first, and the duplicate found is the first one. -/
theorem buildFailsOnSizeThenOnDuplicate : Obligations.BuildFailsOnSizeThenOnDuplicate := by
  intro s _ hfatal hready
  have hp : prologue .build s = none := prologue_eq_none_of_readyIs0 rfl hfatal hready rfl
  refine ⟨fun hsize => ?_, fun i j x hsize hij hi hj hearlier hlater => ?_⟩
  · exact exec_eq_failed (f := .invalidBankSize s.bcnt) hp (buildRule_of_size_ne hsize) hfatal rfl
  · have hd := firstDuplicate_eq_some hij hi hj hearlier hlater
    exact exec_eq_failed (f := .duplicateWord j i x) hp (buildRule_of_firstDuplicate hsize hd) hfatal rfl

/-- Settles O31: in a constructed codec every digit has its word, which looks up to the digit, and no other word is in the
index. -/
theorem bankReadsForwardAndBack : Obligations.BankReadsForwardAndBack := by
  intro s h hfatal hready
  refine ⟨fun d => ?_, fun x hx hmem => ?_⟩
  · have hslot := h.getElem?_bankSlot hready d
    have hfits := h.bankWords _ (List.mem_of_getElem? hslot)
    exact ⟨bankSlot s d, hslot, exec_bankrd hfatal hready d,
      exec_eq_answered (prologue_lookup_eq_none hfatal hready hfits) (lookupRule_of_some (h.lookup_bankSlot hready d))⟩
  · have hnone : lookup s.idx x = none :=
      Option.eq_none_iff_forall_ne_some.mpr fun d hd => hmem ((h.mem_bank_iff_lookup hready).mpr ⟨d, hd⟩)
    have hp := prologue_lookup_eq_none hfatal hready hx
    exact exec_eq_failed (f := .unrecognizedWord 0 x) hp (lookupRule_of_none hnone) hfatal rfl

/-- Settles O28: the push appends while there is a free slot, and the count saturates. -/
theorem bankPushFillsTheNextSlot : Obligations.BankPushFillsTheNextSlot := by
  intro s x h hfatal hready hx
  have hp : prologue (.bankpush x) s = none := prologue_eq_none_of_readyIs0 rfl hfatal hready (decide_eq_true hx)
  exact ⟨satIncr s.bcnt, satIncr_toNat s.bcnt, exec_eq_answered hp (h.bankpushRule_eq x)⟩

end Sys2Proof.Machine

/-! # The buffer family: clearing, pushing and reading the working arrays -/

namespace Sys2Proof.Machine

section
variable {i : Instr} {s t : State}

/-! ## The failures of the working arrays (R131, R137, R139) -/

/-- With FATAL = 0 a rule that finds its array full fails with code 9, ERRAUX the size that it needs. -/
theorem exec_of_capacity {n : Nat} (hp : prologue i s = none) (hr : ruleOf i s = .error (.capacity (header i) n))
    (hfatal : fatal s = false) : exec i s = .next (failed s 9 (header i) (BitVec.ofNat 32 n) []) :=
  exec_eq_failed (f := .capacity (header i) n) hp hr hfatal rfl

/-- With FATAL = 0 a rule that finds its index beyond the array fails with code 6, ERRAUX the exclusive bound. -/
theorem exec_of_rangeError {n : Nat} (hp : prologue i s = none)
    (hr : ruleOf i s = .error (.rangeError (header i) n)) (hfatal : fatal s = false) :
    exec i s = .next (failed s 6 (header i) (BitVec.ofNat 32 n) []) :=
  exec_eq_failed (f := .rangeError (header i) n) hp hr hfatal rfl

/-! ## The rules, an equation per case -/

/-! ### BPUSH and DPUSH (R86, R89) -/

theorem bpushRule_of_room (b : Byte) (h : s.buf.length ≠ s.bufCap) :
    bpushRule b s = .ok ⟨setBuf (s.buf ++ [b]) s, BitVec.ofNat 32 (s.buf.length + 1), none⟩ := by
  rw [bpushRule, if_neg h, memWrite_end, respond]

theorem bpushRule_of_full (b : Byte) (h : s.buf.length = s.bufCap) :
    bpushRule b s = .error (.capacity (header (.bpush b)) (s.bufCap + 1)) := if_pos h

theorem dpushRule_of_room (d : Digit) (h : s.dig.length ≠ s.digCap) :
    dpushRule d s = .ok ⟨setDig (s.dig ++ [d]) s, BitVec.ofNat 32 (s.dig.length + 1), none⟩ := by
  rw [dpushRule, if_neg h, memWrite_end, respond]

theorem dpushRule_of_full (d : Digit) (h : s.dig.length = s.digCap) :
    dpushRule d s = .error (.capacity (header (.dpush d)) (s.digCap + 1)) := if_pos h

/-! ### BRD and DRD (R87, R90) -/

theorem brdRule_of_some {a : BitVec 24} {b : Byte} (h : s.buf[a.toNat]? = some b) :
    brdRule a s = .ok ⟨s, b.setWidth 32, none⟩ := by
  simp [brdRule, h, respond]

theorem brdRule_of_le {a : BitVec 24} (h : s.buf.length ≤ a.toNat) :
    brdRule a s = .error (.rangeError (header (.brd a)) s.buf.length) := by
  simp [brdRule, List.getElem?_eq_none h]

theorem drdRule_of_some {j : BitVec 24} {d : Digit} (h : s.dig[j.toNat]? = some d) :
    drdRule j s = .ok ⟨s, d.setWidth 32, none⟩ := by
  simp [drdRule, h, respond]

theorem drdRule_of_le {j : BitVec 24} (h : s.dig.length ≤ j.toNat) :
    drdRule j s = .error (.rangeError (header (.drd j)) s.dig.length) := by
  simp [drdRule, List.getElem?_eq_none h]

/-! ### WPUSH (R91) -/

/-- In a constructed codec a word outside the bank has no entry in the index. -/
theorem Inv.lookup_eq_none_of_not_mem (h : Inv s) (hready : ready s = true) {x : Word} (hx : x ∉ s.bank) :
    lookup s.idx x = none :=
  Option.eq_none_iff_forall_ne_some.mpr fun d hd => hx ((h.mem_bank_iff_lookup hready).mpr ⟨d, hd⟩)

theorem wpushRule_of_none {x : Word} (h : lookup s.idx x = none) :
    wpushRule x s = .error (.unrecognizedWord s.dig.length x) := by
  simp [wpushRule, h]

theorem wpushRule_of_full {x : Word} {d : Digit} (h : lookup s.idx x = some d) (hfull : s.dig.length = s.digCap) :
    wpushRule x s = .error (.capacity (header (.wpush x)) (s.digCap + 1)) := by
  simp [wpushRule, h, hfull]

theorem wpushRule_of_room {x : Word} {d : Digit} (h : lookup s.idx x = some d) (hroom : s.dig.length ≠ s.digCap) :
    wpushRule x s = .ok ⟨setDig (s.dig ++ [d]) s, d.setWidth 32, none⟩ := by
  simp [wpushRule, h, hroom, respond]

/-! ### WGET (R92) -/

theorem wgetRule_of_le {j : BitVec 24} (h : s.dig.length ≤ j.toNat) :
    wgetRule j s = .error (.rangeError (header (.wget j)) s.dig.length) := by
  simp [wgetRule, List.getElem?_eq_none h]

theorem wgetRule_of_lookup {j : BitVec 24} {d : Digit} {x : Word} (hd : s.dig[j.toNat]? = some d)
    (hx : s.bank[d.toNat]? = some x) (h : lookup s.idx x = some d) :
    wgetRule j s = .ok ⟨s, d.setWidth 32, some x⟩ := by
  simp [wgetRule, hd, bankSlot_of_getElem? hx, h, respondWord]

/-- The sanity check: the word read does not index back to its digit. -/
theorem wgetRule_of_lookup_ne {j : BitVec 24} {d : Digit} {x : Word} (hd : s.dig[j.toNat]? = some d)
    (hx : s.bank[d.toNat]? = some x) (h : lookup s.idx x ≠ some d) :
    wgetRule j s = .error (.fatal (header (.wget j)) d x) := by
  simp [wgetRule, hd, bankSlot_of_getElem? hx, h]

/-! ## What a push does to its array (R32, R81) -/

/-- A command keeps what R143 lists, or its rule succeeds and the next state is that of the rule's reply. -/
theorem exec_keepsWork_or_ok (h : exec i s = .next t) :
    KeepsWork s t ∨ ∃ r, ruleOf i s = .ok r ∧ t = pushResponse ⟨0, r.val, r.word⟩ r.st := by
  obtain ⟨f, -, rfl⟩ | ⟨f, -, -, rfl⟩ | ⟨r, -, hr, rfl⟩ := exec_cases h
  · exact .inl (raise_keepsWork f s)
  · exact .inl (raise_keepsWork f s)
  · exact .inr ⟨r, hr, rfl⟩

/-- A command whose response has a code other than 0 has failed, so it keeps what R143 lists. -/
theorem exec_keepsWork_of_err_ne_zero {r : Response} (h : exec i s = .next t)
    (hr : t.responses = s.responses ++ [r]) (herr : r.err ≠ 0) : KeepsWork s t := by
  obtain ⟨f, -, rfl⟩ | ⟨r', u, -, hw, hzero, rfl⟩ := exec_outcome h
  · exact raise_keepsWork f s
  · obtain rfl : r' = r := by simpa [hw.responses] using hr
    exact absurd hzero herr

theorem exec_bpush_buf {b : Byte} (h : exec (.bpush b) s = .next t) : t.buf = s.buf ∨ t.buf = s.buf ++ [b] := by
  obtain hk | ⟨r, hr, rfl⟩ := exec_keepsWork_or_ok h
  · exact .inl hk.buf
  · obtain ⟨-, hst⟩ : s.buf.length ≠ s.bufCap ∧ r.st = setBuf (s.buf ++ [b]) s := by simpa using ruleOf_ok hr
    exact .inr (congrArg State.buf hst)

theorem exec_push_dig (hpush : (∃ d, i = .dpush d) ∨ ∃ x, i = .wpush x) (h : exec i s = .next t) :
    t.dig = s.dig ∨ ∃ z, t.dig = s.dig ++ [z] := by
  obtain hk | ⟨r, hr, rfl⟩ := exec_keepsWork_or_ok h
  · exact .inl hk.dig
  · obtain ⟨z, hst⟩ : ∃ z, r.st = setDig (s.dig ++ [z]) s := by
      obtain ⟨d, rfl⟩ | ⟨x, rfl⟩ := hpush
      · obtain ⟨-, hst⟩ : s.dig.length ≠ s.digCap ∧ r.st = setDig (s.dig ++ [d]) s := by simpa using ruleOf_ok hr
        exact ⟨d, hst⟩
      · obtain ⟨_, ⟨⟨z, rfl⟩, -⟩, hst⟩ : ∃ d, ((∃ z, d = s.dig ++ [z]) ∧ s.dig.length ≠ s.digCap) ∧
            r.st = setDig d s := by simpa using ruleOf_ok hr
        exact ⟨z, hst⟩
    exact .inr ⟨z, congrArg State.dig hst⟩

/-- The slot that `BANKPUSH` fills is the one at the end of the written ones, whose index is the old BCNT. -/
theorem Inv.exec_bankpush_bank (hinv : Inv s) {x : Word} (h : exec (.bankpush x) s = .next t) :
    t.bank = s.bank ∨ (t.bank = s.bank ++ [x] ∧ s.bcnt.toNat = s.bank.length) := by
  obtain hk | ⟨r, hr, rfl⟩ := exec_keepsWork_or_ok h
  · exact .inl hk.bank
  · obtain rfl := Except.ok.inj ((hinv.bankpushRule_eq x).symm.trans hr)
    obtain ⟨-, -, hlen⟩ := (memory_wf_iff s).mp hinv.memory
    by_cases hfree : s.bcnt.toNat < 2048
    · exact .inr ⟨if_pos hfree, by omega⟩
    · exact .inl (if_neg hfree)

/-- Appending one element leaves every index but the old length as it was. -/
theorem getElem?_append_singleton_of_ne {α : Type} (l : List α) (x : α) {a : Nat} (h : a ≠ l.length) :
    (l ++ [x])[a]? = l[a]? := by
  rw [List.getElem?_append]
  split
  · rfl
  · rw [List.getElem?_eq_none (by simp; omega), List.getElem?_eq_none (by omega)]

end

/-! ## The obligations -/

/-- Settles O37: a push that fails keeps its array, one that succeeds appends one element, and the writers of the other
arrays do not include it. -/
theorem pushesKeepTheEarlierElements : Obligations.PushesKeepTheEarlierElements := by
  intro i s t hinv ht
  have hbuf := exec_buf ht
  have hdig := exec_dig ht
  have hbank := exec_bank ht
  refine ⟨?_, fun hpush => ?_, ?_, fun r hr herr _ => ?_⟩
  · rintro b rfl
    refine ⟨by simpa using hdig, by simpa using hbank.imp_left And.left, fun a ha => ?_⟩
    obtain heq | heq := exec_bpush_buf ht
    · rw [heq]
    · rw [heq, getElem?_append_singleton_of_ne _ _ ha]
  · have hother : t.buf = s.buf ∧ t.bank = s.bank := by
      obtain ⟨d, rfl⟩ | ⟨x, rfl⟩ := hpush <;>
        exact ⟨by simpa using hbuf, by simpa using hbank.imp_left And.left⟩
    refine ⟨hother.1, hother.2, fun a ha => ?_⟩
    obtain heq | ⟨z, heq⟩ := exec_push_dig hpush ht
    · rw [heq]
    · rw [heq, getElem?_append_singleton_of_ne _ _ ha]
  · rintro x rfl
    refine ⟨by simpa using hbuf, by simpa using hdig, fun a ha => ?_⟩
    obtain heq | ⟨heq, hend⟩ := hinv.exec_bankpush_bank ht
    · rw [heq]
    · rw [heq, getElem?_append_singleton_of_ne _ _ (hend ▸ ha)]
  · have hk := exec_keepsWork_of_err_ne_zero ht hr herr
    exact ⟨hk.buf, hk.dig, hk.bank, hk.bcnt⟩

/-- Settles O34: both commands run in any state with FATAL = 0, and neither rule can fail. -/
theorem clearingAnArray : Obligations.ClearingAnArray := fun _ hfatal =>
  ⟨exec_eq_answered (prologue_eq_none_of_any rfl hfatal rfl) rfl,
    exec_eq_answered (prologue_eq_none_of_any rfl hfatal rfl) rfl⟩

/-- Settles O35: the write at the old length appends, and the full array is the one failure. -/
theorem pushingAnElement : Obligations.PushingAnElement := by
  intro s hfatal
  have hbpush (b : Byte) : prologue (.bpush b) s = none := prologue_eq_none_of_any rfl hfatal rfl
  have hdpush (d : Digit) : prologue (.dpush d) s = none := prologue_eq_none_of_any rfl hfatal rfl
  refine ⟨fun b hlt => ?_, fun b hfull => ?_, fun d hlt => ?_, fun d hfull => ?_⟩
  · exact exec_eq_answered (hbpush b) (bpushRule_of_room b hlt.ne)
  · exact header_bpush b ▸ exec_of_capacity (hbpush b) (bpushRule_of_full b hfull) hfatal
  · exact exec_eq_answered (hdpush d) (dpushRule_of_room d hlt.ne)
  · exact header_dpush d ▸ exec_of_capacity (hdpush d) (dpushRule_of_full d hfull) hfatal

/-- Settles O36: the index either finds its element or lies at or above the length, which is the bound reported. -/
theorem readingAnElement : Obligations.ReadingAnElement := by
  intro s a hfatal
  have hbrd : prologue (.brd a) s = none := prologue_eq_none_of_any rfl hfatal rfl
  have hdrd : prologue (.drd a) s = none := prologue_eq_none_of_any rfl hfatal rfl
  refine ⟨fun b hb => ?_, fun hle => ?_, fun d hd => ?_, fun hle => ?_⟩
  · exact exec_eq_answered hbrd (brdRule_of_some hb)
  · exact header_brd a ▸ exec_of_rangeError hbrd (brdRule_of_le hle) hfatal
  · exact exec_eq_answered hdrd (drdRule_of_some hd)
  · exact header_drd a ▸ exec_of_rangeError hdrd (drdRule_of_le hle) hfatal

/-- Settles O38: in a constructed codec the index is the bank read backwards, and it is asked before the capacity. -/
theorem wordPushAppendsItsDigit : Obligations.WordPushAppendsItsDigit := by
  intro s x h hfatal hready hx
  have hp : prologue (.wpush x) s = none := prologue_eq_none_of_readyIs1 rfl hfatal hready (decide_eq_true hx)
  refine ⟨fun d hd hlt => ?_, fun hmem => ?_, fun hmem hfull => ?_⟩
  · exact exec_eq_answered hp (wpushRule_of_room ((h.lookup_idx_iff hready).mpr hd) hlt.ne)
  · have hnone := h.lookup_eq_none_of_not_mem hready hmem
    exact exec_eq_failed (f := .unrecognizedWord s.dig.length x) hp (wpushRule_of_none hnone) hfatal rfl
  · obtain ⟨d, hd⟩ := (h.mem_bank_iff_lookup hready).mp hmem
    exact header_wpush x ▸ exec_of_capacity hp (wpushRule_of_full hd hfull) hfatal

/-- Settles O39: below CNT the lookup of the word read decides, and its miss is the failure that sets FATAL. -/
theorem wordGetReadsThroughTheBank : Obligations.WordGetReadsThroughTheBank := by
  intro s j hfatal hready
  have hp : prologue (.wget j) s = none := prologue_eq_none_of_readyIs1 rfl hfatal hready rfl
  refine ⟨fun d x hd hx => ⟨fun hgood => ?_, fun hbroken => ?_⟩, fun hle => ?_⟩
  · exact exec_eq_answered hp (wgetRule_of_lookup hd hx hgood)
  · rw [exec_of_error hp (wgetRule_of_lookup_ne hd hx hbroken), raise_eq_setFatal_failed _ hfatal rfl, header_wget]
    rfl
  · exact header_wget j ▸ exec_of_rangeError hp (wgetRule_of_le hle) hfatal

end Sys2Proof.Machine

/-! # The aligner family: the two lengths there and back, their queries, and DROP1 -/

namespace Sys2Proof.Machine

/-! ## The pad bits and the slack bits (R95) -/

theorem padBits_eq_mod (n : Nat) : padBits n = 3 * n % 11 := by
  unfold padBits wordlen; omega

theorem add_padBits (n : Nat) : 8 * n + padBits n = 11 * wordlen n :=
  Nat.add_sub_of_le (wordlen_bounds n).1

theorem slackBits_eq_mod (w : Nat) : slackBits w = 3 * w % 8 := by
  unfold slackBits bytelen; omega

theorem add_slackBits (w : Nat) : 8 * bytelen w + slackBits w = 11 * w :=
  Nat.add_sub_of_le (bytelen_bounds w).1

/-- Of the pad bits of `n` bytes a whole byte, if there is one, goes to the candidate; the rest is slack. -/
theorem slackBits_wordlen (n : Nat) : slackBits (wordlen n) = padBits n % 8 := by
  have hpad := add_padBits n
  rw [slackBits_eq_mod]
  omega

/-! ## The candidate of an encoded length (R97) -/

theorem bytelen_wordlen (n : Nat) : bytelen (wordlen n) = n + padBits n / 8 := by
  have hpad := add_padBits n
  have hslack := add_slackBits (wordlen n)
  rw [slackBits_wordlen] at hslack
  omega

/-- The candidate of `w` words has again `w` words, so every word count is reached. -/
theorem wordlen_bytelen (w : Nat) : wordlen (bytelen w) = w := by
  have hslack := add_slackBits w
  rw [slackBits_eq_mod] at hslack
  unfold wordlen
  omega

/-- The candidate is one byte too long exactly if the pad bits hold a whole byte. -/
theorem bytelen_wordlen_eq_succ_iff {n : Nat} :
    bytelen (wordlen n) = n + 1 ↔ n % 11 = 3 ∨ n % 11 = 7 ∨ n % 11 = 10 := by
  have hresidues : ∀ r < 11, 3 * r % 11 / 8 = 1 ↔ r = 3 ∨ r = 7 ∨ r = 10 := by decide
  rw [bytelen_wordlen, Nat.add_left_cancel_iff, padBits_eq_mod, ← Nat.mul_mod_mod,
    hresidues _ (Nat.mod_lt _ (by decide))]

/-! ## The ambiguity flag (R98) -/

/-- One byte less than the candidate still needs `w` words exactly if the byte and the slack together are less than a
digit, so at most two bits of slack. -/
theorem flexible_iff_slackBits {w : Nat} : flexible w = true ↔ 1 ≤ w ∧ slackBits w ≤ 2 := by
  have hslack := add_slackBits w
  have hbounds := bytelen_bounds w
  have hpos : 1 ≤ bytelen w ↔ 1 ≤ w := by constructor <;> intro <;> omega
  rw [flexible, Bool.and_eq_true, decide_eq_true_iff, decide_eq_true_iff, hpos, wordlen]
  exact and_congr_right fun _ => by constructor <;> intro <;> omega

theorem flexible_iff_mod {w : Nat} : flexible w = true ↔ 1 ≤ w ∧ (w % 8 = 0 ∨ w % 8 = 3 ∨ w % 8 = 6) := by
  have hresidues : ∀ r < 8, 3 * r % 8 ≤ 2 ↔ r = 0 ∨ r = 3 ∨ r = 6 := by decide
  rw [flexible_iff_slackBits, slackBits_eq_mod, ← Nat.mul_mod_mod, hresidues _ (Nat.mod_lt _ (by decide))]

theorem flexible_wordlen_iff_mod {n : Nat} :
    flexible (wordlen n) = true ↔ n ≠ 0 ∧ n % 11 ∈ [0, 3, 4, 7, 8, 10] := by
  have hresidues : ∀ r < 11, 3 * r % 11 % 8 ≤ 2 ↔ r ∈ [0, 3, 4, 7, 8, 10] := by decide
  have hbounds := wordlen_bounds n
  have hpos : 1 ≤ wordlen n ↔ n ≠ 0 := by constructor <;> intro <;> omega
  rw [flexible_iff_slackBits, hpos, slackBits_wordlen, padBits_eq_mod, ← Nat.mul_mod_mod,
    hresidues _ (Nat.mod_lt _ (by decide))]

/-! ## The value that BLEN answers (R61, R101) -/

/-- The length of a 24-bit word count leaves bit 31 of the response free for the flag. -/
theorem blenValue_toNat {w : Nat} (hw : w < 2 ^ 24) :
    (blenValue w).toNat = bytelen w + if flexible w then 2 ^ 31 else 0 := by
  have hbounds := bytelen_bounds w
  rw [blenValue, BitVec.toNat_ofNat]
  split <;> omega

theorem blenValue_toNat_mod {w : Nat} (hw : w < 2 ^ 24) : (blenValue w).toNat % 2 ^ 31 = bytelen w := by
  have hbounds := bytelen_bounds w
  rw [blenValue_toNat hw]
  split <;> omega

theorem le_blenValue_toNat_iff {w : Nat} (hw : w < 2 ^ 24) : 2 ^ 31 ≤ (blenValue w).toNat ↔ flexible w = true := by
  have hbounds := bytelen_bounds w
  rw [blenValue_toNat hw]
  split
  · next hflag => simp [hflag]
  · next hflag => simp only [hflag, Bool.false_eq_true, iff_false]; omega

/-! ## DROP1, an equation per case (R102) -/

section
variable {s : State}

theorem drop1Rule_of_cons {b : Byte} {rest : List Byte} (h : s.buf = b :: rest) :
    drop1Rule s = .ok ⟨setBuf rest s, BitVec.ofNat 32 rest.length, none⟩ := by
  rw [drop1Rule, if_neg (by simp [h]), memRead_tail, h]
  rfl

theorem drop1Rule_of_nil (h : s.buf = []) : drop1Rule s = .error (.rangeError (header .drop1) 0) :=
  if_pos (congrArg List.length h)

end

/-! ## The obligations -/

/-- Settles O40: the candidate exceeds `n` by the whole bytes of the pad bits and the flag is a bound on the slack bits,
both of which are residues of the lengths. -/
theorem lengthsThereAndBack : Obligations.LengthsThereAndBack := by
  refine ⟨fun n => ?_, fun w => ⟨flexible_iff_mod, slackBits_eq_mod w, add_slackBits w, bytelen w, wordlen_bytelen w⟩⟩
  have hcandidate := bytelen_wordlen n
  have hpad : padBits n ≤ 10 := by rw [padBits_eq_mod]; omega
  exact ⟨by omega, bytelen_wordlen_eq_succ_iff, flexible_wordlen_iff_mod, hpad, add_padBits n⟩

/-- Settles O41: neither rule fails, and a 24-bit argument keeps both values inside 32 bits. -/
theorem lengthQueries : Obligations.LengthQueries := by
  intro s n hfatal
  have hwlen : prologue (.wlen n) s = none := prologue_eq_none_of_any rfl hfatal rfl
  have hblen : prologue (.blen n) s = none := prologue_eq_none_of_any rfl hfatal rfl
  refine ⟨⟨BitVec.ofNat 32 (wordlen n.toNat), ?_, exec_eq_answered hwlen rfl⟩,
    blenValue n.toNat, blenValue_toNat_mod n.isLt, ?_, exec_eq_answered hblen rfl⟩
  · have hbounds := wordlen_bounds n.toNat
    exact Nat.mod_eq_of_lt (by omega)
  · rw [le_blenValue_toNat_iff n.isLt, flexible_iff_mod]
    simp

/-- Settles O42: the buffer is empty, which is the one failure, or it has a leading byte, which the rule does not look
at. -/
theorem dropLeadingByte : Obligations.DropLeadingByte := by
  intro s hfatal
  have hp : prologue .drop1 s = none := prologue_eq_none_of_any rfl hfatal rfl
  refine ⟨fun b rest hbuf => ?_, fun hbuf => ?_⟩
  · exact exec_eq_answered hp (drop1Rule_of_cons hbuf)
  · exact header_drop1 ▸ exec_of_rangeError hp (drop1Rule_of_nil hbuf) hfatal

end Sys2Proof.Machine

/-! # The radix family: the positional functions, their two forms and their laws, B2D and D2B -/

namespace Sys2Proof.Machine

/-! ## The positional functions by index (R103, R104, R107) -/

/-- The elements of a byte string weighted by their places (R103). -/
theorem be_eq_sum (b : List Byte) :
    be b = ((List.range b.length).map fun i => ((b[i]?).getD 0).toNat * 256 ^ (b.length - 1 - i)).sum := by
  induction b with
  | nil => rfl
  | cons x b ih =>
    rw [be_cons, ih, List.length_cons, List.range_succ_eq_map]
    simp [Function.comp_def, Nat.sub_sub, Nat.add_comm 1]

/-- The elements of a digit array weighted by their places (R107). -/
theorem fromDigits_eq_sum (d : List Digit) :
    fromDigits d = ((List.range d.length).map fun i => ((d[i]?).getD 0).toNat * 2048 ^ i).sum := by
  induction d with
  | nil => rfl
  | cons x d ih =>
    rw [fromDigits_cons, ih, List.length_cons, List.range_succ_eq_map]
    simp [Function.comp_def, Nat.pow_succ, ← mul_assoc, List.sum_map_mul_right, add_comm]

/-- Byte `m` from the end is the quotient by 256^m (R103). -/
theorem bytesBe_eq_reverse_map (V L : Nat) :
    bytesBe V L = ((List.range L).map fun m => BitVec.ofNat 8 (V / 256 ^ m)).reverse := by
  induction L with
  | zero => rfl
  | succ L ih => simp [bytesBe, ih, List.range_succ]

/-- The quotient that the loop of R104 has reached in step `i` is that by 2048^i. -/
theorem toDigits_eq_map (V w : Nat) :
    toDigits V w = (List.range w).map fun i => BitVec.ofNat 11 (V / 2048 ^ i % 2048) := by
  induction w generalizing V with
  | zero => rfl
  | succ w ih =>
    rw [toDigits, ih, List.range_succ_eq_map]
    simp [Function.comp_def, Nat.div_div_eq_div_mul, Nat.pow_succ']

/-! ## Bits of a sequence and bits of its value (R38, R106) -/

/-- In a little-endian sequence of `k`-bit elements, bit `j` of the value lies in element j / k, at bit j % k. -/
theorem getLsbD_getElem?_eq_testBit_foldr {k : Nat} (hk : 0 < k) (l : List (BitVec k)) (j : Nat) :
    ((l[j / k]?).getD 0).getLsbD (j % k) = (l.foldr (fun (x : BitVec k) acc => acc * 2 ^ k + x.toNat) 0).testBit j := by
  induction l generalizing j with
  | nil => simp
  | cons x l ih =>
    rw [List.foldr_cons, Nat.mul_comm, Nat.testBit_two_pow_mul_add _ x.isLt]
    split
    · next hlt => simp [Nat.div_eq_of_lt hlt, Nat.mod_eq_of_lt hlt, BitVec.getLsbD]
    · next hge =>
      have hle : k ≤ j := Nat.le_of_not_lt hge
      rw [← ih, ← Nat.mod_eq_sub_mod hle, Nat.div_eq_sub_div hk hle, List.getElem?_cons_succ]

theorem bitOfBytes_eq_testBit (b : List Byte) (j : Nat) : bitOfBytes b j = (be b).testBit j := by
  rw [bitOfBytes, getLsbD_getElem?_eq_testBit_foldr (by decide), List.foldr_reverse]
  rfl

theorem bitOfDigits_eq_testBit (d : List Digit) (j : Nat) : bitOfDigits d j = (fromDigits d).testBit j :=
  getLsbD_getElem?_eq_testBit_foldr (by decide) d j

/-- A slice of the bits of a number, by division (R10). -/
theorem bitSlice_testBit (V lo n : Nat) : bitSlice V.testBit lo n = V / 2 ^ lo % 2 ^ n := by
  induction n with
  | zero => simp [bitSlice, Nat.mod_one]
  | succ n ih =>
    rw [Nat.mod_pow_succ, ← ih, ← Nat.toNat_testBit, Nat.testBit_div_two_pow]
    simp [bitSlice, List.range_succ, Nat.mul_comm, Nat.add_comm]

/-! ## The regrouping (R106) -/

theorem regroupToDigits_eq (b : List Byte) (w : Nat) : regroupToDigits b w = toDigits (be b) w := by
  rw [regroupToDigits, funext (bitOfBytes_eq_testBit b), toDigits_eq_map]
  simp only [bitSlice_testBit, ← pow2048_eq, Nat.reducePow]

theorem regroupToBytes_eq (d : List Digit) (L : Nat) : regroupToBytes d L = bytesBe (fromDigits d) L := by
  rw [regroupToBytes, funext (bitOfDigits_eq_testBit d), bytesBe_eq_reverse_map]
  have hbyte (V : Nat) : BitVec.ofNat 8 (V % 2 ^ 8) = BitVec.ofNat 8 V := BitVec.eq_of_toNat_eq (by simp)
  simp only [bitSlice_testBit, ← pow256_eq, hbyte]

/-- The digits have no bit from 11w on, so the finitely many bits that the test looks at are all that could be set. -/
theorem regroupFits_iff (d : List Digit) (L : Nat) : regroupFits d L = true ↔ fromDigits d < 256 ^ L := by
  have hbits : regroupFits d L = true ↔ ∀ t < 11 * d.length - 8 * L, (fromDigits d).testBit (8 * L + t) = false := by
    simp [regroupFits, bitOfDigits_eq_testBit]
  rw [hbits, pow256_eq]
  constructor
  · intro h
    refine Nat.lt_pow_two_of_testBit _ fun j hj => ?_
    by_cases hlt : j < 11 * d.length
    · exact Nat.add_sub_of_le hj ▸ h (j - 8 * L) (by omega)
    · have hsize := pow2048_eq d.length ▸ fromDigits_lt d
      exact Nat.testBit_lt_two_pow (hsize.trans_le (Nat.pow_le_pow_right (by decide) (by omega)))
  · intro h t _
    exact Nat.testBit_lt_two_pow (h.trans_le (Nat.pow_le_pow_right (by decide) (by omega)))

theorem fromDigits_append_singleton (d : List Digit) (z : Digit) :
    fromDigits (d ++ [z]) = fromDigits d + 2048 ^ d.length * z.toNat := by
  induction d with
  | nil => simp [fromDigits_cons]
  | cons x d ih => rw [List.cons_append, fromDigits_cons, ih, fromDigits_cons, List.length_cons, Nat.pow_succ]; ring

/-- The bits that do not fit the candidate are the slack bits of the last digit. -/
theorem fromDigits_append_singleton_lt_iff (d : List Digit) (z : Digit) :
    fromDigits (d ++ [z]) < 256 ^ bytelen (d.length + 1) ↔ z.toNat < 2 ^ (11 - slackBits (d.length + 1)) := by
  have hslack := add_slackBits (d.length + 1)
  have hsmall : slackBits (d.length + 1) < 8 := slackBits_eq_mod _ ▸ Nat.mod_lt _ (by decide)
  have hsplit : 256 ^ bytelen (d.length + 1) = 2 ^ (11 - slackBits (d.length + 1)) * 2048 ^ d.length := by
    rw [pow256_eq, pow2048_eq, ← Nat.pow_add]
    congr 1
    omega
  have hpos : 0 < 2048 ^ d.length := Nat.pow_pos (by decide)
  rw [hsplit, fromDigits_append_singleton, ← Nat.div_lt_iff_lt_mul hpos, Nat.add_mul_div_left _ _ hpos,
    Nat.div_eq_of_lt (fromDigits_lt d), Nat.zero_add]

/-! ## The round trips (R108) -/

/-- `wordlen(n)` digits hold every value of `n` bytes. -/
theorem pow256_le_pow2048_wordlen (n : Nat) : 256 ^ n ≤ 2048 ^ wordlen n := by
  rw [pow256_eq, pow2048_eq]
  exact Nat.pow_le_pow_right (by decide) (wordlen_bounds n).1

theorem fromDigits_toDigits_be (b : List Byte) : fromDigits (toDigits (be b) (wordlen b.length)) = be b := by
  rw [fromDigits_toDigits, Nat.mod_eq_of_lt ((be_lt b).trans_le (pow256_le_pow2048_wordlen _))]

theorem be_bytesBe_of_lt {V L : Nat} (h : V < 256 ^ L) : be (bytesBe V L) = V := by
  rw [be_bytesBe, Nat.mod_eq_of_lt h]

theorem le_bytelen_wordlen (n : Nat) : n ≤ bytelen (wordlen n) :=
  bytelen_wordlen n ▸ Nat.le_add_right _ _

@[simp] theorem be_zeros (k : Nat) : be (zeros k) = 0 := by
  induction k with
  | zero => rfl
  | succ k ih => rw [zeros, List.replicate_succ, be_cons, ← zeros, ih]; simp

/-- Rendering a byte string's value at a greater length puts zero bytes in front (R105). -/
theorem bytesBe_be_of_le {b : List Byte} {L : Nat} (h : b.length ≤ L) :
    bytesBe (be b) L = zeros (L - b.length) ++ b := by
  have hlen : (zeros (L - b.length) ++ b).length = L := by simp [zeros, h]
  have hvalue : be (zeros (L - b.length) ++ b) = be b := by simp [be_append]
  have hrender := bytesBe_be (zeros (L - b.length) ++ b)
  rwa [hlen, hvalue] at hrender

/-! ## B2D and D2B, an equation per case (R109, R110) -/

section
variable {s : State}

theorem b2dRule_of_le (h : wordlen s.buf.length ≤ s.digCap) :
    b2dRule s = .ok ⟨setDig (toDigits (be s.buf) (wordlen s.buf.length)) s,
      BitVec.ofNat 32 (wordlen s.buf.length), none⟩ :=
  if_neg (Nat.not_lt_of_le h)

theorem b2dRule_of_lt (h : s.digCap < wordlen s.buf.length) :
    b2dRule s = .error (.capacity (header .b2d) (wordlen s.buf.length)) :=
  if_pos h

theorem d2bRule_of_fits (hroom : bytelen s.dig.length ≤ s.bufCap)
    (hfits : fromDigits s.dig < 256 ^ bytelen s.dig.length) :
    d2bRule s = .ok ⟨setFlex (flexible s.dig.length)
      (setBuf (bytesBe (fromDigits s.dig) (bytelen s.dig.length)) s), BitVec.ofNat 32 (bytelen s.dig.length), none⟩ := by
  rw [d2bRule, if_neg (Nat.not_lt_of_le hroom), if_neg (Nat.not_le_of_lt hfits), respond]

theorem d2bRule_of_lt (h : s.bufCap < bytelen s.dig.length) :
    d2bRule s = .error (.capacity (header .d2b) (bytelen s.dig.length)) :=
  if_pos h

theorem d2bRule_of_overflow (hroom : bytelen s.dig.length ≤ s.bufCap)
    (hover : 256 ^ bytelen s.dig.length ≤ fromDigits s.dig) :
    d2bRule s = .error (.valueOverflow (header .d2b) (bytelen s.dig.length)) := by
  rw [d2bRule, if_neg (Nat.not_lt_of_le hroom), if_pos hover]

end

/-! ## The obligations -/

/-- Settles O43: the two values are sums over the places, and the two renderings list the quotients by the weights. -/
theorem positionalFunctionsByIndex : Obligations.PositionalFunctionsByIndex := by
  refine ⟨fun b => ⟨be_lt b, be_eq_sum b⟩, fun V L => ⟨length_bytesBe V L, fun i hi => ?_, be_bytesBe_of_lt⟩,
    fun V w => ⟨length_toDigits V w, fun i hi => ?_⟩, fun d => ⟨fromDigits_lt d, fromDigits_eq_sum d⟩⟩
  · have hplace : L - 1 - i < L := by omega
    rw [bytesBe_eq_reverse_map, List.getElem?_reverse (by simpa using hi)]
    simp [hplace]
  · rw [toDigits_eq_map]
    simp [hi]

/-- Settles O44: the bits that the regrouping cuts out are the bits of the value, of which a slice is a quotient and a
remainder by powers of two. -/
theorem regroupingEqualsArithmetic : Obligations.RegroupingEqualsArithmetic :=
  ⟨regroupToDigits_eq, fun d L => ⟨regroupFits_iff d L, regroupToBytes_eq d L⟩, fromDigits_append_singleton_lt_iff⟩

/-- Settles O45: `n` bytes fit `wordlen(n)` digits, and those a candidate of at least `n` bytes, so neither direction
loses anything. -/
theorem converterRoundTrips : Obligations.ConverterRoundTrips := by
  refine ⟨fun b => ?_, fun d L hfits => ?_⟩
  · have hdigits := pow256_le_pow2048_wordlen b.length
    have hlength := le_bytelen_wordlen b.length
    have hbytes : 256 ^ b.length ≤ 256 ^ bytelen (wordlen b.length) := Nat.pow_le_pow_right (by decide) hlength
    have hback := fromDigits_toDigits_be b
    exact ⟨be_lt b, hdigits, Nat.div_eq_of_lt ((be_lt b).trans_le hdigits), hback, hbytes,
      hback.symm ▸ (be_lt b).trans_le hbytes, bytesBe_be_of_le hlength⟩
  · rw [be_bytesBe_of_lt hfits, toDigits_fromDigits]

/-- Settles O46: the digits fit DIG, or the rule fails for their number. -/
theorem bytesToDigitsCommand : Obligations.BytesToDigitsCommand := by
  intro s hfatal
  have hp : prologue .b2d s = none := prologue_eq_none_of_any rfl hfatal rfl
  exact ⟨fun hle => exec_eq_answered hp (b2dRule_of_le hle),
    fun hlt => header_b2d ▸ exec_of_capacity hp (b2dRule_of_lt hlt) hfatal⟩

/-- Settles O47: the candidate's length is tested against BUF before the value is tested against the candidate. -/
theorem digitsToBytesCommand : Obligations.DigitsToBytesCommand := by
  intro s hfatal
  have hp : prologue .d2b s = none := prologue_eq_none_of_any rfl hfatal rfl
  refine ⟨fun hroom hfits => ?_, fun hlt => ?_, fun hroom hover => ?_⟩
  · exact exec_eq_answered hp (d2bRule_of_fits hroom hfits)
  · exact header_d2b ▸ exec_of_capacity hp (d2bRule_of_lt hlt) hfatal
  · exact header_d2b ▸ exec_eq_failed (f := .valueOverflow (header .d2b) (bytelen s.dig.length)) hp
      (d2bRule_of_overflow hroom hover) hfatal rfl

end Sys2Proof.Machine

/-! # The codec family: the provider, its four commands, the round trip, and the host procedures of encode and decode -/

namespace Sys2Proof.Machine

/-! ## The provider (R115 to R120) -/

section
variable {k : Nat} (pv : Provider k)

theorem take_append (b : List Byte) : (append pv b).take b.length = b := List.take_left

/-- What `append` gives is accepted, and its code stripped (R119). -/
theorem verifyStrip_append (b : List Byte) : verifyStrip pv (append pv b) = .ok b := by
  have hroom : ¬(append pv b).length < k := by simp
  have htail : (append pv b).drop b.length = (pv.code b).toList := List.drop_left
  rw [verifyStrip, if_neg hroom]
  simp [take_append, htail]

end

/-- The provider whose requests are a given pair of functions: its code is what `app` puts behind a buffer, and
acceptance and error are those of `ver`. -/
def providerOf {k : Nat} (app : List Byte → List Byte) (ver : List Byte → Except (BitVec 32) (List Byte))
    (hlength : ∀ b, (app b).length = b.length + k) : Provider k where
  code b := ⟨((app b).drop b.length).toArray, by simp [hlength]⟩
  alsoAccepts c := match ver c with
    | .ok _ => true
    | .error _ => false
  error c := match ver c with
    | .ok _ => 0
    | .error e => e

section
variable {k : Nat} {app : List Byte → List Byte} {ver : List Byte → Except (BitVec 32) (List Byte)}
  (hlength : ∀ b, (app b).length = b.length + k)

theorem append_providerOf (hprefix : ∀ b, (app b).take b.length = b) (b : List Byte) :
    append (providerOf app ver hlength) b = app b := by
  simpa [append, providerOf, hprefix] using List.take_append_drop b.length (app b)

/-- Every acceptance is one of `ver`: a buffer whose tail is the code of the rest is `app` of the rest. -/
theorem verifyStrip_providerOf (hprefix : ∀ b, (app b).take b.length = b)
    (hstrip : ∀ c p, ver c = .ok p → k ≤ c.length ∧ p = c.take (c.length - k)) (haccept : ∀ b, ver (app b) = .ok b)
    (c : List Byte) : verifyStrip (providerOf app ver hlength) c = ver c := by
  cases hver : ver c with
  | ok p =>
    obtain ⟨hroom, rfl⟩ := hstrip c p hver
    rw [verifyStrip, if_neg (Nat.not_lt_of_le hroom)]
    simp [providerOf, hver]
  | error e =>
    have hcode : c.drop (c.length - k) ≠ ((providerOf app ver hlength).code (c.take (c.length - k))).toList := by
      intro htail
      have happ := append_providerOf (ver := ver) hlength hprefix (c.take (c.length - k))
      rw [append, ← htail, List.take_append_drop] at happ
      have hok := haccept (c.take (c.length - k))
      rw [← happ, hver] at hok
      cases hok
    have herror : (providerOf app ver hlength).error c = e := by simp [providerOf, hver]
    have hrejects : (providerOf app ver hlength).alsoAccepts c = false := by simp [providerOf, hver]
    simp [verifyStrip, hcode, hrejects, herror]

end

/-- Settles O48: the bounds of R7 give the first half of P5; the laws are those of the representation. -/
theorem providerLaws : Obligations.ProviderLaws :=
  ⟨Nat.le_add_left 1 _, rfl, fun _ h => h.cswRange.1, fun _ pv =>
    ⟨length_append_code pv, take_append pv, fun _ _ => verifyStrip_ok pv, verifyStrip_append pv,
      fun c hshort => ⟨pv.error c, verifyStrip_short pv hshort⟩⟩⟩

/-- Settles O49: the provider made of the two functions. -/
theorem everyLawfulProviderIsModelled : Obligations.EveryLawfulProviderIsModelled :=
  fun _ app ver hlength hprefix hstrip haccept =>
    ⟨providerOf app ver hlength, append_providerOf hlength hprefix,
      verifyStrip_providerOf hlength hprefix hstrip haccept⟩

/-! ## Decoding a digit array, an equation per case (R113) -/

section
variable {k : Nat} {pv : Provider k} {d : List Digit}

theorem decodeDigits_of_overflow (h : 256 ^ bytelen d.length ≤ fromDigits d) :
    decodeDigits pv d = .error ⟨0, none⟩ := if_pos h

variable (hfits : fromDigits d < 256 ^ bytelen d.length)
include hfits

/-- The candidate itself verifies: the first hypothesis. -/
theorem decodeDigits_of_first {p : List Byte}
    (h1 : verifyStrip pv (bytesBe (fromDigits d) (bytelen d.length)) = .ok p) :
    decodeDigits pv d = .ok (p, false) := by
  simp [decodeDigits, Nat.not_le_of_lt hfits, h1]

/-- The digit count admits no second hypothesis. -/
theorem decodeDigits_of_rigid {e : BitVec 32}
    (h1 : verifyStrip pv (bytesBe (fromDigits d) (bytelen d.length)) = .error e)
    (hrigid : flexible d.length = false) : decodeDigits pv d = .error ⟨1, some e⟩ := by
  simp [decodeDigits, Nat.not_le_of_lt hfits, h1, hrigid]

/-- The candidate without its leading byte verifies: the second hypothesis. -/
theorem decodeDigits_of_second {e : BitVec 32} {p : List Byte}
    (h1 : verifyStrip pv (bytesBe (fromDigits d) (bytelen d.length)) = .error e)
    (hflex : flexible d.length = true)
    (h2 : verifyStrip pv ((bytesBe (fromDigits d) (bytelen d.length)).drop 1) = .ok p) :
    decodeDigits pv d = .ok (p, true) := by
  simp only [decodeDigits, Nat.not_le_of_lt hfits, if_false, h1, hflex, Bool.true_eq_false, h2]

theorem decodeDigits_of_neither {e₁ e₂ : BitVec 32}
    (h1 : verifyStrip pv (bytesBe (fromDigits d) (bytelen d.length)) = .error e₁)
    (hflex : flexible d.length = true)
    (h2 : verifyStrip pv ((bytesBe (fromDigits d) (bytelen d.length)).drop 1) = .error e₂) :
    decodeDigits pv d = .error ⟨2, some e₂⟩ := by
  simp only [decodeDigits, Nat.not_le_of_lt hfits, if_false, h1, hflex, Bool.true_eq_false, h2]

end

/-! ## The rules of the four commands, an equation per case (R121 to R124) -/

section
variable {k : Nat} {pv : Provider k} {i : Instr} {s : State}

/-- With FATAL = 0 a rule that finds no accepted buffer fails with code 4, ERRAUX the number of attempts (R136). -/
theorem exec_of_mismatch {attempts : Nat} {cause : Option (BitVec 32)} (hp : prologue i s = none)
    (hr : ruleOf i s = .error (.checksumMismatch attempts cause)) (hfatal : fatal s = false) :
    exec i s = .next (failed s 4 (cause.getD 0) (BitVec.ofNat 32 attempts) []) :=
  exec_eq_failed (f := .checksumMismatch attempts cause) hp hr hfatal rfl

theorem csappRule_of_le (h : s.buf.length + k ≤ s.bufCap) :
    csappRule pv s = .ok ⟨setBuf (append pv s.buf) s, BitVec.ofNat 32 (s.buf.length + k), none⟩ :=
  if_neg (Nat.not_lt_of_le h)

theorem csappRule_of_lt (h : s.bufCap < s.buf.length + k) :
    csappRule pv s = .error (.capacity (header .csapp) (s.buf.length + k)) := if_pos h

theorem csverRule_of_ok {p : List Byte} (h : verifyStrip pv s.buf = .ok p) :
    csverRule pv s = .ok ⟨setBuf p s, BitVec.ofNat 32 p.length, none⟩ := by
  simp [csverRule, h, respond]

theorem csverRule_of_error {e : BitVec 32} (h : verifyStrip pv s.buf = .error e) :
    csverRule pv s = .error (.checksumMismatch 1 (some e)) := by
  simp [csverRule, h]

theorem encodeRule_of_le (hbuf : s.buf.length + k ≤ s.bufCap) (hdig : wordlen (s.buf.length + k) ≤ s.digCap) :
    encodeRule pv s = .ok ⟨setDig (encodeDigits pv s.buf) (setBuf (append pv s.buf) s),
      BitVec.ofNat 32 (wordlen (s.buf.length + k)), none⟩ := by
  rw [encodeRule, if_neg (Nat.not_lt_of_le hbuf), if_neg (Nat.not_lt_of_le hdig), respond]

theorem encodeRule_of_bytes_lt (h : s.bufCap < s.buf.length + k) :
    encodeRule pv s = .error (.capacity (header .encode) (s.buf.length + k)) := if_pos h

theorem encodeRule_of_digits_lt (hbuf : s.buf.length + k ≤ s.bufCap)
    (hdig : s.digCap < wordlen (s.buf.length + k)) :
    encodeRule pv s = .error (.capacity (header .encode) (wordlen (s.buf.length + k))) := by
  rw [encodeRule, if_neg (Nat.not_lt_of_le hbuf), if_pos hdig]

theorem decodeRule_of_lt (h : s.bufCap < bytelen s.dig.length) :
    decodeRule pv s = .error (.capacity (header .decode) (bytelen s.dig.length)) := if_pos h

theorem decodeRule_of_ok {p : List Byte} {again : Bool} (hroom : bytelen s.dig.length ≤ s.bufCap)
    (h : decodeDigits pv s.dig = .ok (p, again)) :
    decodeRule pv s = .ok ⟨setRetried again (setFlex (flexible s.dig.length) (setBuf p s)),
      BitVec.ofNat 32 p.length, none⟩ := by
  simp [decodeRule, Nat.not_lt_of_le hroom, h, respond]

theorem decodeRule_of_error {m : Mismatch} (hroom : bytelen s.dig.length ≤ s.bufCap)
    (h : decodeDigits pv s.dig = .error m) :
    decodeRule pv s = .error (.checksumMismatch m.attempts m.cause) := by
  simp [decodeRule, Nat.not_lt_of_le hroom, h]

end

/-- Settles O50: the augmented buffer fits BUF, or the rule fails for its length. -/
theorem appendChecksumCommand : Obligations.AppendChecksumCommand := by
  intro s hfatal
  have hp : prologue .csapp s = none := prologue_eq_none_of_any rfl hfatal rfl
  exact ⟨fun hle => exec_eq_answered hp (csappRule_of_le hle),
    fun hlt => header_csapp ▸ exec_of_capacity hp (csappRule_of_lt hlt) hfatal⟩

/-- Settles O51: the provider's answer decides; it accepts what it appended and no buffer shorter than its code. -/
theorem verifyChecksumCommand : Obligations.VerifyChecksumCommand := by
  intro s hfatal
  have hp : prologue .csver s = none := prologue_eq_none_of_any rfl hfatal rfl
  have hok (p : List Byte) (h : verifyStrip (Config.provider s.csw) s.buf = .ok p) :
      exec .csver s = .next (answered (setBuf p s) (BitVec.ofNat 32 p.length) none) :=
    exec_eq_answered hp (csverRule_of_ok h)
  have herror (e : BitVec 32) (h : verifyStrip (Config.provider s.csw) s.buf = .error e) :
      exec .csver s = .next (failed s 4 e 1 []) :=
    exec_of_mismatch hp (csverRule_of_error h) hfatal
  exact ⟨hok, herror, fun b hb => hok b (hb ▸ verifyStrip_append _ b),
    fun hshort => ⟨_, herror _ (verifyStrip_short _ hshort)⟩⟩

/-- Settles O52: the size of the augmented buffer is tested before that of its digits. -/
theorem encodeCommand : Obligations.EncodeCommand := by
  intro s hfatal hready
  have hp : prologue .encode s = none := prologue_eq_none_of_readyIs1 rfl hfatal hready rfl
  refine ⟨fun hbuf hdig => ?_, fun hlt => ?_, fun hbuf hlt => ?_⟩
  · exact exec_eq_answered hp (encodeRule_of_le hbuf hdig)
  · exact header_encode ▸ exec_of_capacity hp (encodeRule_of_bytes_lt hlt) hfatal
  · exact header_encode ▸ exec_of_capacity hp (encodeRule_of_digits_lt hbuf hlt) hfatal

/-- Settles O53: the two commands write BUF and DIG in turn what `ENCODE` writes into them together. -/
theorem encodeIsAppendThenConvert : Obligations.EncodeIsAppendThenConvert := by
  intro s t u v hfatal hready hbuf hdig ht hu hv
  have hencode := (encodeCommand s hfatal hready).1 hbuf hdig
  have happend := (appendChecksumCommand s hfatal).1 hbuf
  have hconvert := bytesToDigitsCommand u
  have hroom : wordlen (append (Config.provider s.csw) s.buf).length ≤ s.digCap := by rwa [length_append_code]
  cases hencode.symm.trans ht
  cases happend.symm.trans hu
  cases ((hconvert hfatal).1 hroom).symm.trans hv
  rfl

/-- Settles O54: the answers of `decodeDigits` under the size test of R124, the two hypotheses in their order. -/
theorem decodeCommand : Obligations.DecodeCommand := by
  intro s hfatal hready
  have hp : prologue .decode s = none := prologue_eq_none_of_readyIs1 rfl hfatal hready rfl
  have hmismatch {m : Mismatch} (hroom : bytelen s.dig.length ≤ s.bufCap)
      (h : decodeDigits (Config.provider s.csw) s.dig = .error m) :
      exec .decode s = .next (failed s 4 (m.cause.getD 0) (BitVec.ofNat 32 m.attempts) []) :=
    exec_of_mismatch hp (decodeRule_of_error hroom h) hfatal
  refine ⟨fun hlt => ?_, fun hroom hover => ?_, fun hroom hfits => ?_⟩
  · exact header_decode ▸ exec_of_capacity hp (decodeRule_of_lt hlt) hfatal
  · exact hmismatch hroom (decodeDigits_of_overflow hover)
  cases hfirst : verifyStrip (Config.provider s.csw) (bytesBe (fromDigits s.dig) (bytelen s.dig.length)) with
  | ok p => exact exec_eq_answered hp (decodeRule_of_ok hroom (decodeDigits_of_first hfits hfirst))
  | error e₁ =>
    cases hflex : flexible s.dig.length with
    | false => exact hmismatch hroom (decodeDigits_of_rigid hfits hfirst hflex)
    | true =>
      cases hsecond : verifyStrip (Config.provider s.csw)
          ((bytesBe (fromDigits s.dig) (bytelen s.dig.length)).drop 1) with
      | ok p =>
        have hr := decodeRule_of_ok hroom (decodeDigits_of_second hfits hfirst hflex hsecond)
        rw [hflex] at hr
        exact exec_eq_answered hp hr
      | error e₂ => exact hmismatch hroom (decodeDigits_of_neither hfits hfirst hflex hsecond)

/-! ## The round trip (R125) -/

/-- The whole bytes among the pad bits: one for three residues of the length, none for the others (R97). -/
theorem padBits_div_eight (n : Nat) : padBits n / 8 = if n % 11 ∈ [3, 7, 10] then 1 else 0 := by
  have hresidues : ∀ r < 11, 3 * r % 11 / 8 = if r ∈ [3, 7, 10] then 1 else 0 := by decide
  rw [padBits_eq_mod, ← Nat.mul_mod_mod, hresidues _ (Nat.mod_lt _ (by decide))]

section
variable {k : Nat} (pv : Provider k) (b : List Byte)

@[simp] theorem length_encodeDigits : (encodeDigits pv b).length = wordlen (b.length + k) := by
  simp [encodeDigits]

theorem fromDigits_encodeDigits : fromDigits (encodeDigits pv b) = be (append pv b) := fromDigits_toDigits_be _

/-- The digits of a message never fail the value check of `DECODE`. -/
theorem fromDigits_encodeDigits_lt :
    fromDigits (encodeDigits pv b) < 256 ^ bytelen (encodeDigits pv b).length := by
  have hlength := le_bytelen_wordlen (append pv b).length
  rw [fromDigits_encodeDigits, length_encodeDigits, ← length_append_code pv b]
  exact (be_lt _).trans_le (Nat.pow_le_pow_right (by decide) hlength)

/-- The candidate of a message is its augmented buffer behind a zero byte for each whole byte of its pad bits. -/
theorem bytesBe_fromDigits_encodeDigits :
    bytesBe (fromDigits (encodeDigits pv b)) (bytelen (encodeDigits pv b).length) =
      zeros (padBits (b.length + k) / 8) ++ append pv b := by
  rw [length_encodeDigits, fromDigits_encodeDigits, ← length_append_code pv b,
    bytesBe_be_of_le (le_bytelen_wordlen _), bytelen_wordlen, Nat.add_sub_cancel_left]

variable {pv b}

theorem decodeDigits_encodeDigits_of_exact (hmod : (b.length + k) % 11 ∉ [3, 7, 10]) :
    decodeDigits pv (encodeDigits pv b) = .ok (b, false) := by
  have hcandidate := bytesBe_fromDigits_encodeDigits pv b
  rw [padBits_div_eight, if_neg hmod] at hcandidate
  exact decodeDigits_of_first (fromDigits_encodeDigits_lt pv b) (hcandidate ▸ verifyStrip_append pv b)

variable (hmod : (b.length + k) % 11 ∈ [3, 7, 10])
include hmod

theorem bytesBe_fromDigits_encodeDigits_of_longer :
    bytesBe (fromDigits (encodeDigits pv b)) (bytelen (encodeDigits pv b).length) = 0 :: append pv b := by
  rw [bytesBe_fromDigits_encodeDigits, padBits_div_eight, if_pos hmod]
  rfl

/-- A digit count whose candidate is a byte too long is flexible (R98). -/
theorem flexible_encodeDigits_of_longer : flexible (encodeDigits pv b).length = true := by
  have hresidues : ∀ r < 11, r ∈ [3, 7, 10] → r ≠ 0 ∧ r ∈ [0, 3, 4, 7, 8, 10] := by decide
  obtain ⟨hne, hflex⟩ := hresidues _ (Nat.mod_lt _ (by decide)) hmod
  rw [length_encodeDigits, flexible_wordlen_iff_mod]
  exact ⟨fun hzero => hne (by rw [hzero]), hflex⟩

/-- The zero byte in front is rejected, and the second hypothesis drops it. -/
theorem decodeDigits_encodeDigits_of_noCollision (hcollision : NoZeroPrefixCollision pv b) :
    decodeDigits pv (encodeDigits pv b) = .ok (b, true) := by
  obtain ⟨e, hreject⟩ := hcollision
  have hcandidate := bytesBe_fromDigits_encodeDigits_of_longer (pv := pv) hmod
  refine decodeDigits_of_second (fromDigits_encodeDigits_lt pv b) (hcandidate ▸ hreject)
    (flexible_encodeDigits_of_longer hmod) ?_
  rw [hcandidate]
  exact verifyStrip_append pv b

/-- The zero byte in front is accepted, and stays in front of the payload. -/
theorem decodeDigits_encodeDigits_of_collision (hcollision : ¬NoZeroPrefixCollision pv b) :
    decodeDigits pv (encodeDigits pv b) = .ok (0 :: b, false) := by
  have haccept : verifyStrip pv (0 :: append pv b) = .ok (0 :: b) := by
    cases hverify : verifyStrip pv (0 :: append pv b) with
    | error e => exact absurd ⟨e, hverify⟩ hcollision
    | ok p =>
      obtain ⟨-, rfl⟩ := verifyStrip_ok pv hverify
      have hlength : (0 :: append pv b).length - k = b.length + 1 := by simp; omega
      rw [hlength, List.take_succ_cons, take_append]
  exact decodeDigits_of_first (fromDigits_encodeDigits_lt pv b)
    (bytesBe_fromDigits_encodeDigits_of_longer hmod ▸ haccept)

end

/-! ## The words of a message (R112 to R114) -/

section
variable {k : Nat} {pv : Provider k} {idx : List (Word × Digit)} {bank : List Word} {wordOf : Digit → Word}

/-- When every digit has its word in the bank, the message is the words of the digits. -/
theorem encodeMessage_eq_map (h : ∀ d : Digit, bank[d.toNat]? = some (wordOf d)) (b : List Byte) :
    encodeMessage pv bank b = some ((encodeDigits pv b).map wordOf) := by
  rw [encodeMessage, funext h]
  exact List.mapM_pure

theorem lookupAll_map (h : ∀ d, lookup idx (wordOf d) = some d) (n : Nat) (ds : List Digit) :
    lookupAll idx n (ds.map wordOf) = .ok ds := by
  induction ds generalizing n with
  | nil => rfl
  | cons d ds ih => simp [lookupAll, h, ih]

/-- The first unknown word decides, whatever stands after it. -/
theorem lookupAll_of_unknown {known rest : List Word} {x : Word} (hknown : ∀ y ∈ known, lookup idx y ≠ none)
    (hx : lookup idx x = none) (n : Nat) :
    lookupAll idx n (known ++ x :: rest) = .error (.unrecognizedWord x (n + known.length)) := by
  induction known generalizing n with
  | nil => simp [lookupAll, hx]
  | cons y known ih =>
    obtain ⟨d, hd⟩ := Option.ne_none_iff_exists'.mp (hknown y List.mem_cons_self)
    have htail := ih (fun z hz => hknown z (List.mem_cons_of_mem y hz)) (n + 1)
    simp only [List.cons_append, lookupAll, hd, htail, List.length_cons, Nat.add_assoc, Nat.add_comm 1]

theorem decodeMessage_of_lookup_error {ws : List Word} {e : DecodeFailure} (h : lookupAll idx 0 ws = .error e) :
    decodeMessage pv idx ws = .error e := by
  simp [decodeMessage, h]

theorem decodeMessage_of_ok {ws : List Word} {d : List Digit} {p : List Byte} {again : Bool}
    (h : lookupAll idx 0 ws = .ok d) (hd : decodeDigits pv d = .ok (p, again)) : decodeMessage pv idx ws = .ok p := by
  simp [decodeMessage, h, hd]

theorem decodeMessage_of_mismatch {ws : List Word} {d : List Digit} {m : Mismatch}
    (h : lookupAll idx 0 ws = .ok d) (hd : decodeDigits pv d = .error m) :
    decodeMessage pv idx ws = .error (.checksumMismatch m) := by
  simp [decodeMessage, h, hd]

end

/-- Settles O55: the candidate is the augmented buffer, or has one zero byte in front of it; and the words of a valid
bank look up to the digits they stand at. -/
theorem roundTripInItsExactForm : Obligations.RoundTripInItsExactForm := by
  refine fun k pv b => ⟨decodeDigits_encodeDigits_of_exact, fun hmod =>
    ⟨decodeDigits_encodeDigits_of_noCollision hmod, decodeDigits_encodeDigits_of_collision hmod⟩, ?_⟩
  intro bank p again hlength hdistinct hdecode
  have hslot (d : Digit) : bank[d.toNat]? = some (bank[d.toNat]'(hlength ▸ d.isLt)) := List.getElem?_eq_getElem _
  have hlookup (d : Digit) := (lookup_indexOf hlength.le hdistinct).mpr (hslot d)
  exact ⟨_, encodeMessage_eq_map hslot b, decodeMessage_of_ok (lookupAll_map hlookup 0 _) hdecode⟩

/-- Settles O56: the lookups come before any arithmetic; the empty candidate is shorter than the code; and the slack
bits are the bits that do not fit. -/
theorem messagesThatMustFail : Obligations.MessagesThatMustFail := by
  intro k pv idx hk
  refine ⟨fun known rest x hknown hx => ?_, ⟨pv.error [], ?_⟩, fun d z hz => ?_⟩
  · have hfirst := lookupAll_of_unknown (rest := rest) hknown hx 0
    rw [Nat.zero_add] at hfirst
    exact decodeMessage_of_lookup_error hfirst
  · have hreject : verifyStrip pv [] = .error (pv.error []) := verifyStrip_short pv hk
    exact decodeMessage_of_mismatch (d := []) rfl (decodeDigits_of_rigid (by decide) hreject (by decide))
  · refine decodeDigits_of_overflow (Nat.le_of_not_lt ?_)
    rw [List.length_append, List.length_singleton, fromDigits_append_singleton_lt_iff]
    exact Nat.not_lt_of_le hz

/-! ## One packet of the host (R15) -/

/-- The block with other packets to take and other responses given. -/
def withPort (ps : List Packet) (rs : List Response) (s : State) : State := { s with program := ps, responses := rs }

section
variable {i : Instr} {s t : State}

/-- The host's packet is run on an idle port, and what was on the port before is put back. -/
theorem transact_of_exec {r : Response} (h : exec i (withPort [] [] s) = .next t) (hr : t.responses = [r]) :
    transact (encode i) s = some (withPort s.program s.responses t, r) := by
  have hstep : step { s with program := [encode i], responses := [] } = .next t := by
    rw [step_of_program rfl, stepPacket_of_decode_ok _ (decodeInvertsEncode i)]
    exact h
  simp [transact, hstep, hr, withPort]

/-- A command that succeeds on an idle port, as the host sees it. -/
theorem transact_of_ok {val : Reg} {x : Option Word} (hp : prologue i s = none)
    (hr : ruleOf i (withPort [] [] s) = .ok ⟨withPort [] [] t, val, x⟩) :
    transact (encode i) s = some (withPort s.program s.responses t, ⟨0, val, x⟩) :=
  transact_of_exec (t := pushResponse ⟨0, val, x⟩ (withPort [] [] t)) (exec_of_ok (s := withPort [] [] s) hp hr) rfl

/-- A command that fails on an idle port, as the host sees it. -/
theorem transact_of_fails {f : Failure} (h : Fails i (withPort [] [] s) f) :
    transact (encode i) s = some (withPort s.program s.responses (raise f (withPort [] [] s)), failResponse f) := by
  have hexec : exec i (withPort [] [] s) = .next (raise f (withPort [] [] s)) := by
    obtain hp | ⟨hp, hr⟩ := h
    · exact exec_of_prologue hp
    · exact exec_of_error hp hr
  exact transact_of_exec hexec (raise_responses f _)

end

/-! ## A run up to the first failure (R127, R128, R146) -/

/-- The outcome of a run with the responses `rs` of the packets before it. -/
def prependResponses (rs : List Response) :
    State × Except (Packet × Response) (List Response) → State × Except (Packet × Response) (List Response)
  | (t, .ok rs') => (t, .ok (rs ++ rs'))
  | (t, .error e) => (t, .error e)

/-- What becomes of the outcome of a run when the packets `qs` come after it. -/
def thenRun (qs : List Packet) :
    State × Except (Packet × Response) (List Response) → Option (State × Except (Packet × Response) (List Response))
  | (t, .ok rs) => (runUntilFailure qs t).map (prependResponses rs)
  | (t, .error e) => some (t, .error e)

@[simp] theorem prependResponses_nil : prependResponses [] = id := by
  funext ⟨t, outcome⟩
  cases outcome <;> rfl

section
variable {s t : State} {p : Packet} {r : Response}

theorem runUntilFailure_cons (ps : List Packet) (h : transact p s = some (t, r)) (hr : r.err = 0) :
    runUntilFailure (p :: ps) s = (runUntilFailure ps t).map (prependResponses [r]) := by
  rw [runUntilFailure, h]
  refine (if_neg (not_not_intro hr)).trans ?_
  rcases runUntilFailure ps t with _ | ⟨u, e | rs⟩ <;> rfl

theorem runUntilFailure_cons_failed (ps : List Packet) (h : transact p s = some (t, r)) (hr : r.err ≠ 0) :
    runUntilFailure (p :: ps) s = some (t, .error (p, r)) := by
  rw [runUntilFailure, h]
  exact if_pos hr

theorem runUntilFailure_append (ps qs : List Packet) (s : State) :
    runUntilFailure (ps ++ qs) s = (runUntilFailure ps s).bind (thenRun qs) := by
  induction ps generalizing s with
  | nil => simp [runUntilFailure, thenRun]
  | cons p ps ih =>
    rw [List.cons_append]
    rcases htransact : transact p s with _ | ⟨t, r⟩
    · simp [runUntilFailure, htransact]
    by_cases hr : r.err = 0
    · rw [runUntilFailure_cons _ htransact hr, runUntilFailure_cons _ htransact hr, ih]
      rcases runUntilFailure ps t with _ | ⟨u, e | rs⟩
      · rfl
      · rfl
      · simp only [Option.bind_some, Option.map_some, thenRun, prependResponses]
        rcases runUntilFailure qs u with _ | ⟨v, e | rs'⟩ <;> rfl
    · rw [runUntilFailure_cons_failed _ htransact hr, runUntilFailure_cons_failed _ htransact hr]
      rfl

/-- Commands that read the block, command `j` the element `j` of a list. -/
theorem runUntilFailure_reads {α : Type} {l : List α} {f : Nat → Instr} {g : α → Response}
    (h : ∀ j a, l[j]? = some a → transact (encode (f j)) s = some (s, g a) ∧ (g a).err = 0) :
    runUntilFailure (packets ((List.range l.length).map f)) s = some (s, .ok (l.map g)) := by
  induction l generalizing f with
  | nil => rfl
  | cons a l ih =>
    obtain ⟨htransact, hr⟩ := h 0 a rfl
    have hrest := ih (f := fun j => f (j + 1)) fun j b hb => h (j + 1) b hb
    rw [List.length_cons, List.range_succ_eq_map, List.map_cons, List.map_map]
    exact (runUntilFailure_cons _ htransact hr).trans (congrArg (Option.map (prependResponses [g a])) hrest)

end

/-! ## Clearing, pushing, converting: the first half of a host procedure -/

/-- A command that clears, commands that push, and one that converts. -/
def procedure (first : Instr) (pushes : List Instr) (last : Instr) : List Packet := packets (first :: pushes ++ [last])

section
variable {s s₁ s₂ s₃ : State} {first last : Instr} {pushes : List Instr} {r r₁ : Response}
  (hfirst : transact (encode first) s = some (s₁, r₁)) (hr₁ : r₁.err = 0)
include hfirst hr₁

theorem runUntilFailure_procedure :
    runUntilFailure (procedure first pushes last) s =
      ((runUntilFailure (packets pushes) s₁).bind (thenRun [encode last])).map (prependResponses [r₁]) := by
  rw [← runUntilFailure_append, ← runUntilFailure_cons _ hfirst hr₁]
  simp [procedure, packets]

theorem runUntilFailure_procedure_of_push_failed {e : Packet × Response}
    (hpush : runUntilFailure (packets pushes) s₁ = some (s₂, .error e)) :
    runUntilFailure (procedure first pushes last) s = some (s₂, .error e) := by
  rw [runUntilFailure_procedure hfirst hr₁, hpush]
  rfl

theorem runUntilFailure_procedure_of_failed {rs : List Response}
    (hpush : runUntilFailure (packets pushes) s₁ = some (s₂, .ok rs))
    (hlast : transact (encode last) s₂ = some (s₃, r)) (hr : r.err ≠ 0) :
    runUntilFailure (procedure first pushes last) s = some (s₃, .error (encode last, r)) := by
  rw [runUntilFailure_procedure hfirst hr₁, hpush, Option.bind_some, thenRun,
    runUntilFailure_cons_failed [] hlast hr]
  rfl

theorem runUntilFailure_procedure_of_ok {rs : List Response}
    (hpush : runUntilFailure (packets pushes) s₁ = some (s₂, .ok rs))
    (hlast : transact (encode last) s₂ = some (s₃, r)) (hr : r.err = 0) :
    ∃ rs', runUntilFailure (procedure first pushes last) s = some (s₃, .ok rs') ∧ lastVal rs' = r.val.toNat := by
  refine ⟨r₁ :: (rs ++ [r]), ?_, by simp [lastVal, List.getLast?_cons]⟩
  rw [runUntilFailure_procedure hfirst hr₁, hpush, Option.bind_some, thenRun, runUntilFailure_cons [] hlast hr]
  rfl

end

/-! ## The commands of the host procedures, as the host sees them -/

section
variable {s : State} (hfatal : fatal s = false)
include hfatal

theorem transact_bclr : transact (encode .bclr) s = some (setBuf [] s, ⟨0, 0, none⟩) :=
  transact_of_ok (t := setBuf [] s) (prologue_eq_none_of_any rfl hfatal rfl) rfl

theorem transact_dclr : transact (encode .dclr) s = some (setDig [] s, ⟨0, 0, none⟩) :=
  transact_of_ok (t := setDig [] s) (prologue_eq_none_of_any rfl hfatal rfl) rfl

theorem transact_bpush (b : Byte) (hroom : s.buf.length ≠ s.bufCap) :
    transact (encode (.bpush b)) s =
      some (setBuf (s.buf ++ [b]) s, ⟨0, BitVec.ofNat 32 (s.buf.length + 1), none⟩) :=
  transact_of_ok (t := setBuf (s.buf ++ [b]) s) (prologue_eq_none_of_any rfl hfatal rfl)
    (bpushRule_of_room (s := withPort [] [] s) b hroom)

theorem transact_brd {a : BitVec 24} {b : Byte} (hb : s.buf[a.toNat]? = some b) :
    transact (encode (.brd a)) s = some (s, ⟨0, b.setWidth 32, none⟩) :=
  transact_of_ok (t := s) (prologue_eq_none_of_any rfl hfatal rfl) (brdRule_of_some (s := withPort [] [] s) hb)

variable (hready : ready s = true)
include hready

theorem transact_encode (hbuf : s.buf.length + s.csw ≤ s.bufCap) (hdig : wordlen (s.buf.length + s.csw) ≤ s.digCap) :
    transact (encode .encode) s =
      some (setDig (encodeDigits (Config.provider s.csw) s.buf) (setBuf (append (Config.provider s.csw) s.buf) s),
        ⟨0, BitVec.ofNat 32 (wordlen (s.buf.length + s.csw)), none⟩) :=
  transact_of_ok
    (t := setDig (encodeDigits (Config.provider s.csw) s.buf) (setBuf (append (Config.provider s.csw) s.buf) s))
    (prologue_eq_none_of_readyIs1 rfl hfatal hready rfl) (encodeRule_of_le (s := withPort [] [] s) hbuf hdig)

theorem transact_decode_of_ok {p : List Byte} {again : Bool} (hroom : bytelen s.dig.length ≤ s.bufCap)
    (h : decodeDigits (Config.provider s.csw) s.dig = .ok (p, again)) :
    transact (encode .decode) s =
      some (setRetried again (setFlex (flexible s.dig.length) (setBuf p s)), ⟨0, BitVec.ofNat 32 p.length, none⟩) :=
  transact_of_ok (t := setRetried again (setFlex (flexible s.dig.length) (setBuf p s)))
    (prologue_eq_none_of_readyIs1 rfl hfatal hready rfl) (decodeRule_of_ok (s := withPort [] [] s) hroom h)

theorem transact_decode_of_error {m : Mismatch} (hroom : bytelen s.dig.length ≤ s.bufCap)
    (h : decodeDigits (Config.provider s.csw) s.dig = .error m) :
    ∃ t, transact (encode .decode) s = some (t, ⟨4, m.cause.getD 0, none⟩) :=
  ⟨_, transact_of_fails (i := .decode) (f := .checksumMismatch m.attempts m.cause)
    (.inr ⟨prologue_eq_none_of_readyIs1 rfl hfatal hready rfl, decodeRule_of_error (s := withPort [] [] s) hroom h⟩)⟩

/-- In a constructed codec a word that has a digit is a word of the bank, so no longer than WMAX. -/
theorem transact_wpush (h : Inv s) {x : Word} {d : Digit} (hd : lookup s.idx x = some d)
    (hroom : s.dig.length < s.digCap) :
    transact (encode (.wpush x)) s = some (setDig (s.dig ++ [d]) s, ⟨0, d.setWidth 32, none⟩) :=
  have hx : x.length ≤ s.wmax := h.bankWords x ((h.mem_bank_iff_lookup hready).mpr ⟨d, hd⟩)
  transact_of_ok (t := setDig (s.dig ++ [d]) s)
    (prologue_eq_none_of_readyIs1 rfl hfatal hready (decide_eq_true hx))
    (wpushRule_of_room (s := withPort [] [] s) hd hroom.ne)

/-- A word without a digit fails with code 3, or with code 6 when it is too long to be looked up; the host takes either
for an unrecognized word (R128, R151). -/
theorem transact_wpush_unknown {x : Word} (hx : lookup s.idx x = none) :
    ∃ t r, transact (encode (.wpush x)) s = some (t, r) ∧ r.err ≠ 0 ∧
      hostError .decode (encode (.wpush x)) r = .unrecognizedWord x := by
  by_cases hfit : x.length ≤ s.wmax
  · have hp : prologue (.wpush x) (withPort [] [] s) = none :=
      prologue_eq_none_of_readyIs1 rfl hfatal hready (decide_eq_true hfit)
    exact ⟨_, _, transact_of_fails (.inr ⟨hp, wpushRule_of_none hx⟩), failCode_ne_zero (.unrecognizedWord 0 x), rfl⟩
  · have hbound : staticBound (withPort [] [] s).wmax (.wpush x) = some (s.wmax + 1) := if_pos (Nat.lt_of_not_le hfit)
    refine ⟨_, _, transact_of_exec (exec_of_staticBound hfatal hbound) rfl, (by decide : (6 : BitVec 8) ≠ 0), ?_⟩
    exact if_pos (opField_header (.wpush x))

/-- In a constructed codec a word read passes its sanity check. -/
theorem transact_wget (h : Inv s) {j : BitVec 24} {d : Digit} (hd : s.dig[j.toNat]? = some d) :
    transact (encode (.wget j)) s = some (s, ⟨0, d.setWidth 32, some (bankSlot s d)⟩) :=
  transact_of_ok (t := s) (prologue_eq_none_of_readyIs1 rfl hfatal hready rfl)
    (wgetRule_of_lookup (s := withPort [] [] s) hd (h.getElem?_bankSlot hready d) (h.lookup_bankSlot hready d))

end

/-! ## The loops of the host procedures -/

section
variable {s : State}

/-- Byte after byte, the payload goes to the end of BUF. -/
theorem runUntilFailure_bpush (hfatal : fatal s = false) {p : List Byte} (hroom : s.buf.length + p.length ≤ s.bufCap) :
    ∃ rs, runUntilFailure (packets (p.map .bpush)) s = some (setBuf (s.buf ++ p) s, .ok rs) := by
  induction p generalizing s with
  | nil => exact ⟨[], by rw [List.append_nil]; rfl⟩
  | cons b p ih =>
    rw [List.length_cons] at hroom
    have hpush := transact_bpush hfatal b (by omega)
    obtain ⟨rs, hrest⟩ := ih (s := setBuf (s.buf ++ [b]) s) hfatal (by simp; omega)
    rw [setBuf_buf, List.append_assoc] at hrest
    exact ⟨_, (runUntilFailure_cons _ hpush rfl).trans (congrArg (Option.map (prependResponses _)) hrest)⟩

/-- The bytes that the host reads are those of BUF. -/
theorem runUntilFailure_brd (hfatal : fatal s = false) (hlength : s.buf.length < 2 ^ 24) :
    ∃ rs, runUntilFailure (packets ((List.range s.buf.length).map fun j => .brd (BitVec.ofNat 24 j))) s =
        some (s, .ok rs) ∧ rs.map (fun r => r.val.setWidth 8) = s.buf := by
  refine ⟨_, runUntilFailure_reads (g := fun b => ⟨0, b.setWidth 32, none⟩) fun j b hb =>
    ⟨transact_brd hfatal ?_, rfl⟩, ?_⟩
  · have hj := (List.getElem?_eq_some_iff.mp hb).1
    rwa [BitVec.toNat_ofNat, Nat.mod_eq_of_lt (by omega)]
  · simp [Function.comp_def]

/-- The words that the host reads are those of the digits. -/
theorem runUntilFailure_wget (h : Inv s) (hfatal : fatal s = false) (hready : ready s = true) :
    ∃ rs, runUntilFailure (packets ((List.range s.dig.length).map fun j => .wget (BitVec.ofNat 24 j))) s =
        some (s, .ok rs) ∧ rs.map (fun r => r.word.getD []) = s.dig.map (bankSlot s) := by
  obtain ⟨-, hcap⟩ := h.digCapRange
  obtain ⟨-, hroom, -⟩ := (memory_wf_iff s).mp h.memory
  refine ⟨_, runUntilFailure_reads (g := fun d => ⟨0, d.setWidth 32, some (bankSlot s d)⟩) fun j d hd =>
    ⟨transact_wget hfatal hready h ?_, rfl⟩, ?_⟩
  · have hj := (List.getElem?_eq_some_iff.mp hd).1
    rwa [BitVec.toNat_ofNat, Nat.mod_eq_of_lt (by omega)]
  · simp [Function.comp_def]

end

/-! ## The lookups of a message, word by word (R113, R114) -/

section
variable {idx : List (Word × Digit)} {x : Word} {ws : List Word} {n : Nat}

theorem lookupAll_cons_eq_ok {ds : List Digit} (h : lookupAll idx n (x :: ws) = .ok ds) :
    ∃ d ds', lookup idx x = some d ∧ lookupAll idx (n + 1) ws = .ok ds' ∧ ds = d :: ds' := by
  rw [lookupAll] at h
  split at h
  · cases h
  · next d hd =>
    split at h <;> cases h
    next ds' hds => exact ⟨d, ds', hd, hds, rfl⟩

theorem lookupAll_cons_eq_error {e : DecodeFailure} (h : lookupAll idx n (x :: ws) = .error e) :
    (lookup idx x = none ∧ e = .unrecognizedWord x n) ∨
      ∃ d, lookup idx x = some d ∧ lookupAll idx (n + 1) ws = .error e := by
  rw [lookupAll] at h
  split at h
  · next hx => cases h; exact .inl ⟨hx, rfl⟩
  · next d hd =>
    split at h <;> cases h
    next he => exact .inr ⟨d, hd, he⟩

theorem length_of_lookupAll {ds : List Digit} (h : lookupAll idx n ws = .ok ds) : ds.length = ws.length := by
  induction ws generalizing n ds with
  | nil => cases h; rfl
  | cons x ws ih =>
    obtain ⟨d, ds', -, hrest, rfl⟩ := lookupAll_cons_eq_ok h
    rw [List.length_cons, List.length_cons, ih hrest]

end

section
variable {s : State}

/-- A message whose words are all known goes to DIG digit by digit. -/
theorem runUntilFailure_wpush (h : Inv s) (hfatal : fatal s = false) (hready : ready s = true) {ws : List Word}
    {n : Nat} {ds : List Digit} (hroom : s.dig.length + ws.length ≤ s.digCap) (hds : lookupAll s.idx n ws = .ok ds) :
    ∃ rs, runUntilFailure (packets (ws.map .wpush)) s = some (setDig (s.dig ++ ds) s, .ok rs) := by
  induction ws generalizing s n ds with
  | nil =>
    cases hds
    exact ⟨[], by rw [List.append_nil]; rfl⟩
  | cons x ws ih =>
    obtain ⟨d, ds', hd, hrest, rfl⟩ := lookupAll_cons_eq_ok hds
    rw [List.length_cons] at hroom
    have hpush := transact_wpush hfatal hready h hd (by omega)
    have hinv : Inv (setDig (s.dig ++ [d]) s) := h.setDig fun _ => by simp; omega
    obtain ⟨rs, hrun⟩ := ih hinv hfatal hready (by simp; omega) hrest
    rw [setDig_dig, List.append_assoc] at hrun
    exact ⟨_, (runUntilFailure_cons _ hpush rfl).trans (congrArg (Option.map (prependResponses _)) hrun)⟩

/-- A message with an unknown word stops the host at the first of them. -/
theorem runUntilFailure_wpush_unknown (h : Inv s) (hfatal : fatal s = false) (hready : ready s = true)
    {ws : List Word} {n : Nat} {e : DecodeFailure} (hroom : s.dig.length + ws.length ≤ s.digCap)
    (he : lookupAll s.idx n ws = .error e) :
    ∃ x position t p r, e = .unrecognizedWord x position ∧
      runUntilFailure (packets (ws.map .wpush)) s = some (t, .error (p, r)) ∧
      hostError .decode p r = .unrecognizedWord x := by
  induction ws generalizing s n with
  | nil => cases he
  | cons x ws ih =>
    obtain ⟨hx, rfl⟩ | ⟨d, hd, hrest⟩ := lookupAll_cons_eq_error he
    · obtain ⟨t, r, htransact, hr, herror⟩ := transact_wpush_unknown hfatal hready hx
      exact ⟨x, n, t, _, r, rfl, runUntilFailure_cons_failed _ htransact hr, herror⟩
    · rw [List.length_cons] at hroom
      have hpush := transact_wpush hfatal hready h hd (by omega)
      have hinv : Inv (setDig (s.dig ++ [d]) s) := h.setDig fun _ => by simp; omega
      obtain ⟨y, position, t, p, r, rfl, hrun, herror⟩ := ih hinv hfatal hready (by simp; omega) hrest
      exact ⟨y, position, t, p, r, rfl,
        (runUntilFailure_cons _ hpush rfl).trans (congrArg (Option.map (prependResponses _)) hrun), herror⟩

end

/-! ## The two procedures (R127, R128) -/

section
variable {s t u : State} {rs rs' : List Response}

theorem hostEncode_of_ok {p : List Byte}
    (hrun : runUntilFailure (procedure .bclr (p.map .bpush) .encode) s = some (t, .ok rs))
    (hread : runUntilFailure (packets ((List.range (lastVal rs)).map fun j => .wget (BitVec.ofNat 24 j))) t =
      some (u, .ok rs')) : hostEncode p s = some (u, .ok (rs'.map fun r => r.word.getD [])) := by
  rw [procedure] at hrun
  simp only [hostEncode, hrun, hread]

theorem hostDecode_of_ok {ws : List Word}
    (hrun : runUntilFailure (procedure .dclr (ws.map .wpush) .decode) s = some (t, .ok rs))
    (hread : runUntilFailure (packets ((List.range (lastVal rs)).map fun j => .brd (BitVec.ofNat 24 j))) t =
      some (u, .ok rs')) : hostDecode ws s = some (u, .ok (rs'.map fun r => r.val.setWidth 8)) := by
  rw [procedure] at hrun
  simp only [hostDecode, hrun, hread]

theorem hostDecode_of_failed {ws : List Word} {p : Packet} {r : Response}
    (hrun : runUntilFailure (procedure .dclr (ws.map .wpush) .decode) s = some (t, .error (p, r))) :
    hostDecode ws s = some (t, .error (hostError .decode p r)) := by
  rw [procedure] at hrun
  simp only [hostDecode, hrun]

end

/-- Settles O57: the payload is pushed into an empty BUF, `ENCODE` leaves its digits in DIG, and each is read through
the bank as its word. -/
theorem hostEncodeReturnsTheMessage : Obligations.HostEncodeReturnsTheMessage := by
  intro s p h hfatal hready hbuf hdig
  obtain ⟨-, hcap⟩ := h.digCapRange
  obtain ⟨rs, hpush⟩ := runUntilFailure_bpush (s := setBuf [] s) hfatal (p := p) (by simp; omega)
  have hlast := transact_encode (s := setBuf p s) hfatal hready hbuf hdig
  obtain ⟨rs', hrun, hval⟩ := runUntilFailure_procedure_of_ok (transact_bclr hfatal) rfl hpush hlast rfl
  have hinv : Inv (setDig (encodeDigits (Config.provider s.csw) p) (setBuf (append (Config.provider s.csw) p) s)) :=
    (h.setBuf fun _ => by simpa using hbuf).setDig fun _ => by simpa using hdig
  obtain ⟨words, hread, hwords⟩ := runUntilFailure_wget hinv hfatal hready
  have hcount : lastVal rs' = (encodeDigits (Config.provider s.csw) p).length :=
    (hval.trans (Nat.mod_eq_of_lt (by simp; omega))).trans (length_encodeDigits _ p).symm
  rw [setDig_dig, ← hcount] at hread
  refine ⟨_, _, hostEncode_of_ok hrun hread, ?_⟩
  rw [hwords]
  exact encodeMessage_eq_map (h.getElem?_bankSlot hready) p

section
variable {s : State} {ws : List Word} (h : Inv s) (hfatal : fatal s = false) (hready : ready s = true)
  (hdig : ws.length ≤ s.digCap)
include h hfatal hready hdig

theorem hostDecode_of_lookup_error {e : DecodeFailure} (he : lookupAll s.idx 0 ws = .error e) :
    ∃ x position t, e = .unrecognizedWord x position ∧ hostDecode ws s = some (t, .error (.unrecognizedWord x)) := by
  have hempty : Inv (setDig [] s) := h.setDig fun _ => Nat.zero_le _
  obtain ⟨x, position, t, p, r, rfl, hpush, herror⟩ :=
    runUntilFailure_wpush_unknown hempty hfatal hready (by simpa using hdig) he
  have hrun := runUntilFailure_procedure_of_push_failed (last := .decode) (transact_dclr hfatal) rfl hpush
  exact ⟨x, position, t, rfl, herror ▸ hostDecode_of_failed hrun⟩

/-- The host's pushes leave the digits of the message in DIG. -/
theorem runUntilFailure_wpush_cleared {ds : List Digit} (hds : lookupAll s.idx 0 ws = .ok ds) :
    ∃ rs, runUntilFailure (packets (ws.map .wpush)) (setDig [] s) = some (setDig ds s, .ok rs) :=
  runUntilFailure_wpush (s := setDig [] s) (h.setDig fun _ => Nat.zero_le _) hfatal hready (by simpa using hdig) hds

variable (hbuf : bytelen ws.length ≤ s.bufCap)
include hbuf

theorem hostDecode_of_mismatch {ds : List Digit} {m : Mismatch} (hds : lookupAll s.idx 0 ws = .ok ds)
    (hdecode : decodeDigits (Config.provider s.csw) ds = .error m) :
    ∃ t, hostDecode ws s = some (t, .error (.checksumMismatch (m.cause.getD 0))) := by
  obtain ⟨rs, hpush⟩ := runUntilFailure_wpush_cleared h hfatal hready hdig hds
  have hroom : bytelen ds.length ≤ s.bufCap := length_of_lookupAll hds ▸ hbuf
  obtain ⟨t, hlast⟩ := transact_decode_of_error (s := setDig ds s) hfatal hready hroom hdecode
  have hne : (⟨4, m.cause.getD 0, none⟩ : Response).err ≠ 0 := (by decide : (4 : BitVec 8) ≠ 0)
  have hrun := runUntilFailure_procedure_of_failed (transact_dclr hfatal) rfl hpush hlast hne
  exact ⟨t, hostDecode_of_failed hrun⟩

theorem hostDecode_of_payload {ds : List Digit} {p : List Byte} {again : Bool} (hds : lookupAll s.idx 0 ws = .ok ds)
    (hdecode : decodeDigits (Config.provider s.csw) ds = .ok (p, again)) :
    ∃ t, hostDecode ws s = some (t, .ok p) := by
  obtain ⟨-, hcap⟩ := h.bufCapRange
  obtain ⟨rs, hpush⟩ := runUntilFailure_wpush_cleared h hfatal hready hdig hds
  have hroom : bytelen ds.length ≤ s.bufCap := length_of_lookupAll hds ▸ hbuf
  have hlength := (decodeDigits_ok_length hdecode).1
  have hlast := transact_decode_of_ok (s := setDig ds s) hfatal hready hroom hdecode
  obtain ⟨rs', hrun, hval⟩ := runUntilFailure_procedure_of_ok (transact_dclr hfatal) rfl hpush hlast rfl
  obtain ⟨bytes, hread, hbytes⟩ := runUntilFailure_brd
    (s := setRetried again (setFlex (flexible ds.length) (setBuf p (setDig ds s)))) (by simpa using hfatal)
    (by simp; omega)
  have hcount : lastVal rs' = p.length := hval.trans (Nat.mod_eq_of_lt (by omega))
  have hhost := hostDecode_of_ok hrun (hcount ▸ hread)
  rw [hbytes] at hhost
  exact ⟨_, hhost⟩

end

/-- Settles O58: a message with an unknown word stops at its `WPUSH`; any other is in DIG digit by digit when `DECODE`
runs, and the host reads the payload back from BUF, or has the provider's last error. -/
theorem hostDecodeReturnsThePayload : Obligations.HostDecodeReturnsThePayload := by
  intro s ws h hfatal hready hdig hbuf
  cases hlookup : lookupAll s.idx 0 ws with
  | error e =>
    obtain ⟨x, position, t, rfl, hhost⟩ := hostDecode_of_lookup_error h hfatal hready hdig hlookup
    exact ⟨t, by rw [hhost, decodeMessage_of_lookup_error hlookup]⟩
  | ok ds =>
    rcases hdecode : decodeDigits (Config.provider s.csw) ds with m | ⟨p, again⟩
    · obtain ⟨t, hhost⟩ := hostDecode_of_mismatch h hfatal hready hdig hbuf hlookup hdecode
      exact ⟨t, by rw [hhost, decodeMessage_of_mismatch hlookup hdecode]⟩
    · obtain ⟨t, hhost⟩ := hostDecode_of_payload h hfatal hready hdig hbuf hlookup hdecode
      exact ⟨t, by rw [hhost, decodeMessage_of_ok hlookup hdecode]⟩

end Sys2Proof.Machine

/-! # The exception family: what a failure leaves, the refusals by lifecycle state, and the frozen block -/

namespace Sys2Proof.Machine

/-! ## Failures (R129, R143) -/

section
variable {i : Instr} {s : State} {f : Failure}

theorem Fails.exec_eq_raise (h : Fails i s f) : exec i s = .next (raise f s) := by
  obtain hp | ⟨hp, hr⟩ := h
  · exact exec_of_prologue hp
  · exact exec_of_error hp hr

/-- The failure that sets FATAL has the code of `Fatal` (R130). -/
theorem failCode_of_failSetsFatal (h : failSetsFatal f = true) : failCode f = 11 := by
  cases f with
  | fatal => rfl
  | _ => cases h

/-- `WGET`'s sanity check is only made in lifecycle state READY (R92, R148). -/
theorem Fails.ready_of_failSetsFatal {j : BitVec 24} (h : Fails (.wget j) s f) (hset : failSetsFatal f = true) :
    fatal s = false ∧ ready s = true := by
  obtain hp | ⟨hp, -⟩ := h
  · exact absurd (prologue_failSetsFatal hp) (by simp [hset])
  · obtain ⟨hgate, -, hready, -⟩ := prologue_eq_none.mp hp
    exact ⟨by simpa [needs] using hgate, hready rfl⟩

end

/-- Settles O8: an illegal packet raises `IllegalCommand` on the state from which it has been taken. -/
theorem illegalPacketFailsInEveryState : Obligations.IllegalPacketFailsInEveryState := by
  intro s p rest e hp hd
  rw [step_of_program hp, stepPacket_of_decode_error _ hd]
  exact ⟨fun hfatal => congrArg Host.Outcome.next (raise_eq_failed (s := setProgram rest s) _ hfatal rfl),
    fun hfatal => congrArg Host.Outcome.next (raise_of_fatal (s := setProgram rest s) _ hfatal)⟩

/-- Settles O16: a code other than 0 is that of a failure, and FATAL changes by the failure of `WGET`'s sanity check
alone. -/
theorem failuresArePrecise : Obligations.FailuresArePrecise := by
  intro i s t r ht hr herr
  refine ⟨exec_keepsWork_of_err_ne_zero ht hr herr, (exec_fatal ht).imp_right ?_⟩
  rintro ⟨j, f, rfl, hf, hset, hfatal⟩
  obtain rfl : raise f s = t := by simpa [hf.exec_eq_raise] using ht
  obtain rfl : failResponse f = r := by simpa using hr
  exact ⟨j, rfl, failCode_of_failSetsFatal hset, hfatal⟩

/-! ## The refusals by lifecycle state (R138, R142) -/

section
variable {i : Instr} {s : State} (hfatal : fatal s = false) (hwf : i.wellFormed s.wmax = true)
include hfatal hwf

/-- With FATAL = 0 and READY = 0 a command that needs READY = 1 fails with `NotReady`, its operands being in range. -/
theorem exec_of_not_ready (hready : ready s = false) (hneeds : needs i = .readyIs1) :
    exec i s = .next (failed s 7 (header i) 0 []) := by
  have hp : prologue i s = some (.notReady (header i)) := by
    simp [prologue, hfatal, staticBound_eq_none.mpr hwf, hneeds, hready]
  rw [exec_of_prologue hp, raise_eq_failed _ hfatal rfl]
  rfl

/-- With FATAL = 0 and READY = 1 a command that needs READY = 0 fails with `Sealed`, its operands being in range. -/
theorem exec_of_ready (hready : ready s = true) (hneeds : needs i = .readyIs0) :
    exec i s = .next (failed s 8 (header i) 0 []) := by
  have hp : prologue i s = some (.sealed (header i)) := by
    simp [prologue, hfatal, staticBound_eq_none.mpr hwf, hneeds, hready]
  rw [exec_of_prologue hp, raise_eq_failed _ hfatal rfl]
  rfl

end

/-- Settles O18: six commands need READY = 1 and two need READY = 0. -/
theorem lifecycleRefusals : Obligations.LifecycleRefusals := by
  refine fun s hfatal => ⟨fun hready => ?_, fun hready => ?_⟩
  · have hrefuse (i : Instr) (hneeds : needs i = .readyIs1) (hwf : i.wellFormed s.wmax = true) :=
      exec_of_not_ready hfatal hwf hready hneeds
    exact ⟨fun x hx => header_lookup x ▸ hrefuse (.lookup x) rfl (decide_eq_true hx),
      fun d => header_bankrd d ▸ hrefuse (.bankrd d) rfl rfl,
      fun x hx => header_wpush x ▸ hrefuse (.wpush x) rfl (decide_eq_true hx),
      fun j => header_wget j ▸ hrefuse (.wget j) rfl rfl,
      header_encode ▸ hrefuse .encode rfl rfl, header_decode ▸ hrefuse .decode rfl rfl⟩
  · exact ⟨fun x hx => header_bankpush x ▸ exec_of_ready hfatal (decide_eq_true hx) hready rfl,
      header_build ▸ exec_of_ready hfatal rfl hready rfl⟩

/-! ## The lifecycle state (R148) -/

section
variable {s t : State}

theorem lifecycle_of_fatal (hfatal : fatal s = true) : lifecycle s = .fatal := if_pos hfatal

theorem lifecycle_of_ready (hfatal : fatal s = false) (hready : ready s = true) : lifecycle s = .ready := by
  simp [lifecycle, hfatal, hready]

theorem lifecycle_of_not_ready (hfatal : fatal s = false) (hready : ready s = false) : lifecycle s = .unbuilt := by
  simp [lifecycle, hfatal, hready]

/-- Two states with the same FATAL differ in their lifecycle state only by READY, and only while FATAL = 0. -/
theorem ready_ne_of_lifecycle_ne (hkeep : fatal t = fatal s) (hne : lifecycle t ≠ lifecycle s) :
    fatal s = false ∧ ready t ≠ ready s := by
  refine ⟨Bool.eq_false_of_not_eq_true fun hfatal => hne ?_, fun hready => hne (by simp [lifecycle, hkeep, hready])⟩
  rw [lifecycle_of_fatal hfatal, lifecycle_of_fatal (hkeep.trans hfatal)]

/-- With FATAL = 0 `CLEAR` drops everything, READY included (R67). -/
theorem ready_of_exec_clear (hfatal : fatal s = false) (ht : exec .clear s = .next t) : ready t = false := by
  have hclear : exec .clear s = .next (answered (clearAll s) 0 none) :=
    exec_eq_answered (prologue_eq_none_of_any rfl hfatal rfl) rfl
  obtain rfl : answered (clearAll s) 0 none = t := by simpa [hclear] using ht
  exact ready_clearAll s

end

/-- Settles O24: the lifecycle state is read from FATAL and READY. FATAL is only set by `WGET`; while it stays 0, READY
changes by `CLEAR` or by a `BUILD` that found it 0. -/
theorem lifecycleTransitions : Obligations.LifecycleTransitions := by
  intro i s t ht hne
  obtain hkeep | ⟨j, f, rfl, hf, hset, hfatal⟩ := exec_fatal ht
  · obtain ⟨hfatal, hready⟩ := ready_ne_of_lifecycle_ne hkeep hne
    have hfatal' : fatal t = false := hkeep.trans hfatal
    obtain ⟨-, hsame⟩ | rfl | ⟨rfl, hs⟩ := exec_index ht
    · exact absurd hsame hready
    · have hzero := ready_of_exec_clear hfatal ht
      have hone : ready s = true := by simpa [hzero] using hready.symm
      exact .inr (.inl ⟨lifecycle_of_ready hfatal hone, lifecycle_of_not_ready hfatal' hzero, rfl⟩)
    · have hone : ready t = true := by simpa [hs] using hready
      exact .inl ⟨lifecycle_of_not_ready hfatal hs, lifecycle_of_ready hfatal' hone, rfl⟩
  · obtain ⟨hzero, hready⟩ := hf.ready_of_failSetsFatal hset
    exact .inr (.inr ⟨lifecycle_of_ready hzero hready, lifecycle_of_fatal hfatal, j, rfl⟩)

/-! ## The block while FATAL = 1 (R145) -/

/-- The response of a command while FATAL = 1 (R145). -/
def frozenResponse (s : State) : Instr → Response
  | .nop => ⟨0, 0, none⟩
  | .rderrw => ⟨0, BitVec.ofNat 32 s.errword.length, some s.errword⟩
  | .rdreg r => if r.toNat ≤ 10 then ⟨0, readReg s r.toNat, none⟩ else ⟨6, header (.rdreg r), none⟩
  | i => ⟨11, header i, none⟩

section
variable {i : Instr} {s : State}

/-- The three commands that run in every lifecycle state (R144). -/
theorem needs_eq_anyFatal : needs i = .anyFatal ↔ i = .nop ∨ i = .rderrw ∨ ∃ r, i = .rdreg r := by
  cases i <;> simp [needs]

theorem frozenResponse_of_needs_ne (hneeds : needs i ≠ .anyFatal) : frozenResponse s i = ⟨11, header i, none⟩ := by
  cases i with
  | nop | rderrw | rdreg => exact absurd rfl hneeds
  | _ => rfl

variable (hfatal : fatal s = true)
include hfatal

/-- A command that does not run while FATAL = 1 is stopped by the first gate of its prologue (R144, R141 step 2). -/
theorem prologue_of_fatal (hneeds : needs i ≠ .anyFatal) : prologue i s = some (.halted (header i)) :=
  if_pos ⟨hfatal, hneeds⟩

theorem exec_rdreg_of_fatal (r : BitVec 24) :
    exec (.rdreg r) s = .next (pushResponse (frozenResponse s (.rdreg r)) s) := by
  by_cases hr : r.toNat ≤ 10
  · rw [exec_rdreg s (Nat.lt_succ_of_le hr), frozenResponse, if_pos hr]
    rfl
  · have hp : prologue (.rdreg r) s = some (.rangeError (header (.rdreg r)) 11) := by
      simp [prologue, needs, staticBound, Nat.lt_of_not_le hr]
    rw [exec_of_prologue hp, raise_of_fatal _ hfatal, frozenResponse, if_neg hr]
    rfl

/-- While FATAL = 1 a command gives its response and does nothing else. -/
theorem exec_of_fatal (i : Instr) : exec i s = .next (pushResponse (frozenResponse s i) s) := by
  by_cases hneeds : needs i = .anyFatal
  · cases i with
    | nop | rderrw => exact exec_eq_answered (prologue_eq_none_of_anyFatal rfl rfl) rfl
    | rdreg r => exact exec_rdreg_of_fatal hfatal r
    | _ => cases hneeds
  · rw [exec_of_prologue (prologue_of_fatal hfatal hneeds), raise_of_fatal _ hfatal, frozenResponse_of_needs_ne hneeds]
    rfl

/-- While FATAL = 1 an illegal packet gives its response and does nothing else. -/
theorem stepPacket_of_fatal_of_decode_error {p : Packet} {e : DecodeError} (hd : Sys2Proof.decode p = .error e) :
    stepPacket p s = .next (pushResponse ⟨5, p.hdr, none⟩ s) := by
  rw [stepPacket_of_decode_error s hd, raise_of_fatal _ hfatal]
  rfl

end

/-- Settles O17: every packet only gives its response, and a legal packet's header is that of its command. -/
theorem fatalFreezesTheBlock : Obligations.FatalFreezesTheBlock := by
  intro s p rest hfatal hp
  have hfatal' : fatal (setProgram rest s) = true := hfatal
  rw [step_of_program hp]
  cases hd : Sys2Proof.decode p with
  | error e =>
    exact ⟨_, ⟨5, p.hdr, none⟩, stepPacket_of_fatal_of_decode_error hfatal' hd, rfl, rfl, fun _ _ => rfl,
      nofun, nofun, nofun, nofun, nofun⟩
  | ok i =>
    obtain rfl := legalPacketIsItsCommandsPacket p i hd
    have hstep := (stepPacket_of_decode_ok _ hd).trans (exec_of_fatal hfatal' i)
    refine ⟨_, frozenResponse (setProgram rest s) i, hstep, rfl, rfl, nofun, ?_, ?_, fun n => ?_, fun n => ?_, fun i => ?_⟩ <;>
      rintro ⟨⟩
    · rfl
    · rfl
    · exact fun hle => if_pos hle
    · exact fun hlt => if_neg (Nat.not_le_of_lt hlt)
    · intro hnop hrderrw hrdreg
      exact frozenResponse_of_needs_ne (by simp [needs_eq_anyFatal, hnop, hrderrw, hrdreg])

/-! ## The host procedures on a block in lifecycle state FATAL (R145, R151) -/

section
variable {s : State}

theorem hostConstruct_of_failed {B : List Word} {t : State} {p : Packet} {r : Response}
    (hrun : runUntilFailure (procedure .clear (B.map .bankpush) .build) s = some (t, .error (p, r))) :
    hostConstruct B s = some (t, .error (hostError .construction p r)) := by
  rw [procedure] at hrun
  simp only [hostConstruct, hrun]

theorem hostEncode_of_failed {b : List Byte} {t : State} {p : Packet} {r : Response}
    (hrun : runUntilFailure (procedure .bclr (b.map .bpush) .encode) s = some (t, .error (p, r))) :
    hostEncode b s = some (t, .error (hostError .encode p r)) := by
  rw [procedure] at hrun
  simp only [hostEncode, hrun]

/-- A host procedure ends at its first command when FATAL = 1 stops that command. -/
theorem runUntilFailure_procedure_of_fatal {first : Instr} (pushes : List Instr) (last : Instr)
    (hfatal : fatal s = true) (hneeds : needs first ≠ .anyFatal) :
    runUntilFailure (procedure first pushes last) s =
      some (s, .error (encode first, ⟨11, header first, none⟩)) := by
  have hexec := exec_of_fatal (s := withPort [] [] s) hfatal first
  rw [frozenResponse_of_needs_ne hneeds] at hexec
  have htransact : transact (encode first) s = some (s, ⟨11, header first, none⟩) :=
    transact_of_exec (t := pushResponse _ (withPort [] [] s)) hexec rfl
  exact runUntilFailure_cons_failed _ htransact (by decide : (11 : BitVec 8) ≠ 0)

end

/-- Settles O60: none of `CLEAR`, `BCLR` and `DCLR` runs while FATAL = 1, and R151 gives code 11 to encode alone. -/
theorem hostReportsOfAFatalBlock : Obligations.HostReportsOfAFatalBlock := by
  intro s hfatal
  have hrun (first : Instr) (hneeds : needs first ≠ .anyFatal) (pushes : List Instr) (last : Instr) :=
    runUntilFailure_procedure_of_fatal pushes last hfatal hneeds
  exact ⟨fun B => header_clear ▸ hostConstruct_of_failed (hrun .clear (by decide) _ _),
    fun b => hostEncode_of_failed (hrun .bclr (by decide) _ _),
    fun ws => header_dclr ▸ hostDecode_of_failed (hrun .dclr (by decide) _ _)⟩

end Sys2Proof.Machine

/-! # The reset family: the reset state, CLEAR, and construction through the host procedure -/

namespace Sys2Proof.Machine

/-! ## Reset and CLEAR (R67, R152 to R154) -/

/-- Settles O10: in the reset state every register, array and latch has the value written in its definition. -/
theorem resetValuesAsTheSpecGivesThem : Obligations.ResetValuesAsTheSpecGivesThem :=
  ⟨rfl, rfl, rfl, rfl, rfl, rfl, rfl, rfl, rfl, rfl, rfl, rfl, rfl, rfl, rfl, rfl, rfl, lifecycle_of_not_ready rfl rfl⟩

/-- What `CLEAR` leaves is the reset state on this block's parameters and packet port (R154). -/
theorem clearAll_eq_reset (s : State) :
    clearAll s = { State.reset with wmax := s.wmax, bufCap := s.bufCap, digCap := s.digCap, csw := s.csw,
                                    program := s.program, responses := s.responses } := rfl

/-- With FATAL = 0 `CLEAR` drops everything and answers 0 (R67). -/
theorem exec_clear {s : State} (hfatal : fatal s = false) : exec .clear s = .next (answered (clearAll s) 0 none) :=
  exec_eq_answered (prologue_eq_none_of_any rfl hfatal rfl) rfl

/-- Settles O26: `CLEAR` and asserting reset both drop everything, but `CLEAR` is refused while FATAL = 1. -/
theorem clearIsReset : Obligations.ClearIsReset := by
  refine fun s => ⟨fun hfatal => ?_, fun hfatal => ?_, clearAll_eq_reset s⟩
  · rw [exec_clear hfatal, clearAll_eq_reset]
  · rw [exec_of_fatal hfatal, frozenResponse_of_needs_ne (by decide), header_clear, pushResponse]

/-! ## The commands of construction, as the host sees them (R155) -/

section
variable {s : State}

theorem Inv.withPort (h : Inv s) (ps : List Packet) (rs : List Response) : Inv (withPort ps rs s) := { h with }

/-- While there is a free slot `BANKPUSH` appends its word to the bank (R75). -/
theorem Inv.bankpushRule_of_room (h : Inv s) (x : Word) (hroom : s.bcnt.toNat < 2048) :
    bankpushRule x s = .ok ⟨setBank (s.bank ++ [x]) (satIncr s.bcnt) s, satIncr s.bcnt, none⟩ := by
  rw [h.bankpushRule_eq, if_pos hroom]

theorem transact_clear (hfatal : fatal s = false) : transact (encode .clear) s = some (clearAll s, ⟨0, 0, none⟩) :=
  transact_of_exec (exec_clear (s := withPort [] [] s) hfatal) rfl

variable (hfatal : fatal s = false) (hready : ready s = false)
include hfatal hready

/-- While there is a free slot the pushed word becomes the last of the bank. -/
theorem transact_bankpush (h : Inv s) {x : Word} (hx : x.length ≤ s.wmax) (hroom : s.bcnt.toNat < 2048) :
    transact (encode (.bankpush x)) s =
      some (setBank (s.bank ++ [x]) (satIncr s.bcnt) s, ⟨0, satIncr s.bcnt, none⟩) :=
  transact_of_ok (t := setBank (s.bank ++ [x]) (satIncr s.bcnt) s)
    (prologue_eq_none_of_readyIs0 rfl hfatal hready (decide_eq_true hx)) ((h.withPort [] []).bankpushRule_of_room x hroom)

theorem transact_build (hsize : s.bcnt = 2048) (hnd : s.bank.Nodup) :
    transact (encode .build) s = some (setReady true (setIdx (indexOf s.bank) s), ⟨0, 0, none⟩) :=
  transact_of_ok (t := setReady true (setIdx (indexOf s.bank) s)) (prologue_eq_none_of_readyIs0 rfl hfatal hready rfl)
    (buildRule_of_nodup (s := withPort [] [] s) hsize hnd)

end

/-! ## The procedure of construction (R151, R155) -/

/-- Word after word, the bank goes to the free slots, and the invariant holds after the last of them. -/
theorem runUntilFailure_bankpush {s : State} (h : Inv s) (hfatal : fatal s = false) (hready : ready s = false)
    {B : List Word} (hfit : ∀ x ∈ B, x.length ≤ s.wmax) (hroom : s.bcnt.toNat + B.length ≤ 2048) :
    ∃ n rs, n.toNat = s.bcnt.toNat + B.length ∧ Inv (setBank (s.bank ++ B) n s) ∧
      runUntilFailure (packets (B.map .bankpush)) s = some (setBank (s.bank ++ B) n s, .ok rs) := by
  induction B generalizing s with
  | nil =>
    rw [List.append_nil]
    exact ⟨s.bcnt, [], rfl, h, rfl⟩
  | cons x B ih =>
    obtain ⟨hx, hfit⟩ := List.forall_mem_cons.mp hfit
    rw [List.length_cons] at hroom ⊢
    have hslot : s.bcnt.toNat < 2048 := by omega
    have hcount : (satIncr s.bcnt).toNat = s.bcnt.toNat + 1 := by
      rw [satIncr_toNat]
      omega
    have hinv := h.bankpush hx hready
    rw [if_pos hslot, h.memWrite_bank x hslot] at hinv
    obtain ⟨n, rs, hn, hinv, hrun⟩ := ih hinv hfatal hready hfit (by rw [setBank_bcnt]; omega)
    rw [setBank_bank, List.append_assoc] at hinv hrun
    rw [setBank_bcnt] at hn
    exact ⟨n, _, by omega, hinv, (runUntilFailure_cons _ (transact_bankpush hfatal hready h hx hslot) rfl).trans
      (congrArg (Option.map (prependResponses _)) hrun)⟩

theorem hostConstruct_of_ok {s t : State} {B : List Word} {rs : List Response}
    (hrun : runUntilFailure (procedure .clear (B.map .bankpush) .build) s = some (t, .ok rs)) :
    hostConstruct B s = some (t, .ok ()) := by
  rw [procedure] at hrun
  simp only [hostConstruct, hrun]

/-- Settles O59: after `CLEAR` the pushes fill the slots with the bank, so `BUILD` finds 2048 distinct words. -/
theorem hostConstructionBuildsTheCodec : Obligations.HostConstructionBuildsTheCodec := by
  intro s B h hfatal hlength hdistinct hfit
  obtain ⟨n, rs, hn, hinv, hpush⟩ := runUntilFailure_bankpush (B := B) h.clearAll (fatal_clearAll s) (ready_clearAll s)
    hfit (by simp [hlength])
  rw [clearAll_bank, List.nil_append] at hinv hpush
  obtain rfl : n = 2048 := BitVec.eq_of_toNat_eq (by simp [hn, hlength])
  have hlast := transact_build (s := setBank B 2048 (clearAll s)) (fatal_clearAll s) (ready_clearAll s) rfl hdistinct
  obtain ⟨_, hrun, -⟩ := runUntilFailure_procedure_of_ok (transact_clear hfatal) rfl hpush hlast rfl
  exact ⟨_, hostConstruct_of_ok hrun, rfl, lifecycle_of_ready (by simp) (by simp), hinv.build rfl hdistinct⟩

end Sys2Proof.Machine
